-- ==== Sys2Proof/Word.lean ====
section
/-! DEFINITION. The word types of OWT: a 32-bit host register (R18) and an 8-bit bus byte (R18). -/

namespace Sys2Proof

/-- A host register or a command word (R18, R34). -/
abbrev Word := BitVec 32

/-- A bus byte, or the ARG field of a command (R18, R114). -/
abbrev Byte := BitVec 8

end Sys2Proof
end

