-- ==== Sys2Proof/Syntax.lean ====
section
/-! DEFINITION. The commands of OWT: one constructor per row of spec/opcode_table.json (R4, R112, R113, R118). -/

namespace Sys2Proof

/-- Where a command word goes (the opcode table's "register" column): which register is written selects the
unit (R110), and the three bus bytes go out on the line (R118). -/
inductive Target where
  | owCtrl
  | thCtrl
  | bus
  deriving DecidableEq, Repr

/-- A command. Every OW host command carries ARG, because OW_CTRL keeps it whether or not the command uses it
(R114, R35). -/
inductive Instr where
  | owPullLow (arg : Byte)
  | owRelease (arg : Byte)
  | owReset (arg : Byte)
  | owWriteBit (arg : Byte)
  | owReadBit (arg : Byte)
  | owWriteByte (arg : Byte)
  | owReadByte (arg : Byte)
  | owReadTemp (arg : Byte)
  | thConvert
  | skipRom
  | startConversion
  | readScratchpad
  deriving DecidableEq, Repr

/-- The register or line a command is sent to. -/
def Instr.target : Instr → Target
  | .owPullLow _ => .owCtrl
  | .owRelease _ => .owCtrl
  | .owReset _ => .owCtrl
  | .owWriteBit _ => .owCtrl
  | .owReadBit _ => .owCtrl
  | .owWriteByte _ => .owCtrl
  | .owReadByte _ => .owCtrl
  | .owReadTemp _ => .owCtrl
  | .thConvert => .thCtrl
  | .skipRom => .bus
  | .startConversion => .bus
  | .readScratchpad => .bus

end Sys2Proof
end

