-- ==== Sys2Proof/Decode.lean ====
section
/-! DEFINITION. Decoding a command from the bytes written to a target (30_encoding R110–R118), and encoding one. -/

namespace Sys2Proof

/-- Why bytes are no command. -/
inductive DecodeError where
  /-- OP is 0x0 or 0x9 to 0xF (R116). -/
  | illegalOp (op : BitVec 4)
  /-- START = 0: the word encodes no command (R113, R117). -/
  | noCommand
  /-- A bus byte OWT gives no meaning of its own (R119). -/
  | plainBusByte (v : Byte)
  /-- Not the one length of the format (R110). -/
  | badLength (n : Nat)
  deriving DecidableEq, Repr

/-- OP, bits 3:0 of a word of format OWC (R111). -/
def opField (w : Word) : BitVec 4 := w.extractLsb' 0 4

/-- ARG, bits 15:8 of a word of format OWC (R111). -/
def argField (w : Word) : Byte := w.extractLsb' 8 8

/-- START, bit 0 of a word of format THC (R113). -/
def startField (w : Word) : Bool := w.getLsbD 0

/-- A word written to OW_CTRL (R111, R112). Bits 7:4 and 31:16 are ignored (R117). -/
def decodeOw (w : Word) : Except DecodeError Instr :=
  let arg := argField w
  match (opField w).toNat with
  | 1 => .ok (.owPullLow arg)
  | 2 => .ok (.owRelease arg)
  | 3 => .ok (.owReset arg)
  | 4 => .ok (.owWriteBit arg)
  | 5 => .ok (.owReadBit arg)
  | 6 => .ok (.owWriteByte arg)
  | 7 => .ok (.owReadByte arg)
  | 8 => .ok (.owReadTemp arg)
  | _ => .error (.illegalOp (opField w))

/-- A word written to TH_CTRL (R113). Bits 31:1 are ignored (R117). -/
def decodeTh (w : Word) : Except DecodeError Instr :=
  if startField w then .ok .thConvert else .error .noCommand

/-- A byte the sequencer sends on the line (R118). -/
def decodeBus (v : Byte) : Except DecodeError Instr :=
  match v.toNat with
  | 0xCC => .ok .skipRom
  | 0x44 => .ok .startConversion
  | 0xBE => .ok .readScratchpad
  | _ => .error (.plainBusByte v)

/-- Four byte lanes as a word, lane 0 lowest (R86). -/
def wordOfLanes (b0 b1 b2 b3 : Byte) : Word := b3 ++ b2 ++ b1 ++ b0

/-- Byte lane `i` of a word (R86). -/
def byteLane (w : Word) (i : Nat) : Byte := w.extractLsb' (8 * i) 8

/-- The four byte lanes, lane 0 first (R86). -/
def lanesOfWord (w : Word) : List Byte := [byteLane w 0, byteLane w 1, byteLane w 2, byteLane w 3]

/-- Decoding is total: four bytes for a command register (R110), one byte for the line (R118). -/
def decode (t : Target) (bytes : List Byte) : Except DecodeError Instr :=
  match t, bytes with
  | .owCtrl, [b0, b1, b2, b3] => decodeOw (wordOfLanes b0 b1 b2 b3)
  | .thCtrl, [b0, b1, b2, b3] => decodeTh (wordOfLanes b0 b1 b2 b3)
  | .bus, [v] => decodeBus v
  | _, bs => .error (.badLength bs.length)

/-- What the table's bare bits decode to. Eight bits are a bus byte; 32 bits are a command word, and since the table
gives the word but not the register it goes to, DESIGN CHOICE (log 9): the table's first row that matches, so that
a word is read as an OW command unless its OP is illegal there. -/
def decodeTableWord (nbits w : Nat) : Option Instr :=
  if nbits ≤ 8 then
    (decode .bus [BitVec.ofNat 8 w]).toOption
  else
    match decode .owCtrl (lanesOfWord (BitVec.ofNat 32 w)) with
    | .ok i => some i
    | .error _ => (decode .thCtrl (lanesOfWord (BitVec.ofNat 32 w))).toOption

/-- A word of format OWC with its reserved bits 0 (R111, R123). -/
def owcWord (op : BitVec 4) (arg : Byte) : Word := (0 : BitVec 16) ++ arg ++ (0 : BitVec 4) ++ op

/-- The word the host writes for a command (R123), or the byte the sequencer sends (R118), as a number of the
format's width. -/
def encodeBytes : Instr → List Byte
  | .owPullLow arg => lanesOfWord (owcWord 1 arg)
  | .owRelease arg => lanesOfWord (owcWord 2 arg)
  | .owReset arg => lanesOfWord (owcWord 3 arg)
  | .owWriteBit arg => lanesOfWord (owcWord 4 arg)
  | .owReadBit arg => lanesOfWord (owcWord 5 arg)
  | .owWriteByte arg => lanesOfWord (owcWord 6 arg)
  | .owReadByte arg => lanesOfWord (owcWord 7 arg)
  | .owReadTemp arg => lanesOfWord (owcWord 8 arg)
  | .thConvert => lanesOfWord 0x00000001#32
  | .skipRom => [0xCC#8]
  | .startConversion => [0x44#8]
  | .readScratchpad => [0xBE#8]

/-- A command as it travels: where it goes, and its bytes. -/
structure Encoded where
  target : Target
  bytes  : List Byte
  deriving DecidableEq, Repr

/-- The encoder: the target and bytes of a command (R110, R118, R123). -/
def encode (i : Instr) : Encoded := ⟨i.target, encodeBytes i⟩

end Sys2Proof
end

