-- ==== Sys2Proof/Machine/Exp.lean ====
section
/-! DEFINITION. The comparison `exp x ≤ y` of rationals, exactly, by rational bounds of the exponential that are refined
until they decide: what R235 needs to test `D ≤ 0` on exact real values. That some refinement decides is proved here,
because the search rests on it: the exponential of a nonzero rational is irrational, so `y` is never on the border. -/

namespace Sys2Proof.Machine

/-! ## Rational bounds -/

/-- `Σ_{i<n} z^i / i!`, the partial sums of the exponential. -/
def expSum : Nat → Rat → Rat
  | 0, _ => 0
  | n + 1, z => expSum n z + z ^ n / (Nat.factorial n : Rat)

/-- A bound from above of what the partial sum of `n` terms leaves out, for `0 ≤ z ≤ 1` and `n > 0`. -/
def expTail (n : Nat) (z : Rat) : Rat := z ^ n * ((n : Rat) + 1) / ((Nat.factorial n : Rat) * (n : Rat))

/-- `exp x` is `(exp (x / m)) ^ m` with `m` at least `x`, so that the bounds are taken below 1. -/
def expSplit (x : Rat) : Nat := max 1 x.ceil.toNat

/-- A rational bound of `exp x` from below, for `x ≥ 0`, by `n` terms. -/
def expLower (n : Nat) (x : Rat) : Rat := expSum n (x / (expSplit x : Rat)) ^ expSplit x

/-- A rational bound of `exp x` from above, for `x ≥ 0`, by `n > 0` terms. -/
def expUpper (n : Nat) (x : Rat) : Rat :=
  let z := x / (expSplit x : Rat)
  (expSum n z + expTail n z) ^ expSplit x

/-- Whether `n` terms tell on which side of `exp x` the number `y` lies. -/
def expDecides (x y : Rat) (n : Nat) : Bool :=
  decide (0 < n) && (decide (expUpper n x ≤ y) || decide (y < expLower n x))

/-! ## They are bounds, and they close in on the exponential -/

theorem expSum_cast (n : Nat) (z : ℚ) :
    ((expSum n z : ℚ) : ℝ) = ∑ i ∈ Finset.range n, (z : ℝ) ^ i / (Nat.factorial i : ℝ) := by
  induction n with
  | zero => simp [expSum]
  | succ n ih => rw [Finset.sum_range_succ, ← ih]; simp [expSum]

theorem expSplit_pos (x : ℚ) : 0 < expSplit x := by simp [expSplit]

theorem le_expSplit (x : ℚ) : x ≤ (expSplit x : ℚ) := by
  have h1 : (x.ceil : ℚ) ≤ (x.ceil.toNat : ℚ) := by exact_mod_cast Int.self_le_toNat x.ceil
  have h2 : (x.ceil.toNat : ℚ) ≤ (expSplit x : ℚ) := by exact_mod_cast Nat.le_max_right 1 x.ceil.toNat
  exact Rat.le_ceil.trans (h1.trans h2)

theorem div_expSplit_le_one (x : ℚ) : ((x / (expSplit x : ℚ) : ℚ) : ℝ) ≤ 1 := by
  have h : x / (expSplit x : ℚ) ≤ 1 := by
    rw [div_le_one (by exact_mod_cast expSplit_pos x)]
    exact le_expSplit x
  exact_mod_cast h

theorem div_expSplit_nonneg {x : ℚ} (hx : 0 ≤ x) : (0 : ℝ) ≤ ((x / (expSplit x : ℚ) : ℚ) : ℝ) := by
  exact_mod_cast div_nonneg hx (Nat.cast_nonneg (expSplit x))

theorem exp_eq_pow_expSplit (x : ℚ) :
    Real.exp (x : ℝ) = Real.exp ((x / (expSplit x : ℚ) : ℚ) : ℝ) ^ expSplit x := by
  have h : (expSplit x : ℝ) ≠ 0 := by exact_mod_cast (expSplit_pos x).ne'
  rw [← Real.exp_nat_mul]
  congr 1
  push_cast
  field_simp

theorem expSum_le_exp (n : Nat) {z : ℚ} (hz : (0 : ℝ) ≤ z) : ((expSum n z : ℚ) : ℝ) ≤ Real.exp z := by
  rw [expSum_cast]
  exact Real.sum_le_exp_of_nonneg hz n

theorem exp_le_expSum_add_expTail {n : Nat} (hn : 0 < n) {z : ℚ} (h0 : (0 : ℝ) ≤ z) (h1 : (z : ℝ) ≤ 1) :
    Real.exp z ≤ ((expSum n z : ℚ) : ℝ) + ((expTail n z : ℚ) : ℝ) := by
  have h := Real.exp_bound' h0 h1 hn
  rw [expSum_cast]
  unfold expTail
  push_cast
  exact h

/-- `expLower` bounds the exponential from below. -/
theorem expLower_le_exp (n : Nat) {x : ℚ} (hx : 0 ≤ x) : ((expLower n x : ℚ) : ℝ) ≤ Real.exp x := by
  have hz := div_expSplit_nonneg hx
  have h0 : (0 : ℝ) ≤ ((expSum n (x / (expSplit x : ℚ)) : ℚ) : ℝ) := by rw [expSum_cast]; positivity
  rw [exp_eq_pow_expSplit, expLower, Rat.cast_pow]
  exact pow_le_pow_left₀ h0 (expSum_le_exp n hz) _

/-- `expUpper` bounds the exponential from above. -/
theorem exp_le_expUpper {n : Nat} (hn : 0 < n) {x : ℚ} (hx : 0 ≤ x) : Real.exp x ≤ ((expUpper n x : ℚ) : ℝ) := by
  rw [exp_eq_pow_expSplit, expUpper, Rat.cast_pow, Rat.cast_add]
  exact pow_le_pow_left₀ (Real.exp_nonneg _)
    (exp_le_expSum_add_expTail hn (div_expSplit_nonneg hx) (div_expSplit_le_one x)) _

theorem expTail_tendsto {z : ℚ} (hz : (0 : ℝ) ≤ z) :
    Filter.Tendsto (fun n => ((expTail n z : ℚ) : ℝ)) Filter.atTop (nhds 0) := by
  have h := (FloorSemiring.tendsto_pow_div_factorial_atTop (z : ℝ)).const_mul 2
  rw [mul_zero] at h
  refine squeeze_zero' (Filter.Eventually.of_forall fun n => ?_) ?_ h
  · unfold expTail; push_cast; positivity
  · filter_upwards [Filter.eventually_ge_atTop 1] with n hn
    have hn' : (1 : ℝ) ≤ n := by exact_mod_cast hn
    have hf : (0 : ℝ) < (Nat.factorial n : ℝ) := by exact_mod_cast Nat.factorial_pos n
    unfold expTail
    push_cast
    rw [← mul_div_assoc, div_le_div_iff₀ (by positivity) hf]
    nlinarith [mul_nonneg (mul_nonneg (pow_nonneg hz n) hf.le) (sub_nonneg.mpr hn')]

theorem expSum_tendsto {z : ℚ} (h0 : (0 : ℝ) ≤ z) (h1 : (z : ℝ) ≤ 1) :
    Filter.Tendsto (fun n => ((expSum n z : ℚ) : ℝ)) Filter.atTop (nhds (Real.exp z)) := by
  have h := (tendsto_const_nhds (x := Real.exp z)).sub (expTail_tendsto h0)
  rw [sub_zero] at h
  refine tendsto_of_tendsto_of_tendsto_of_le_of_le' h tendsto_const_nhds ?_
    (Filter.Eventually.of_forall fun n => expSum_le_exp n h0)
  filter_upwards [Filter.eventually_ge_atTop 1] with n hn
  linarith [exp_le_expSum_add_expTail hn h0 h1]

theorem expLower_tendsto {x : ℚ} (hx : 0 ≤ x) :
    Filter.Tendsto (fun n => ((expLower n x : ℚ) : ℝ)) Filter.atTop (nhds (Real.exp x)) := by
  have h := (expSum_tendsto (div_expSplit_nonneg hx) (div_expSplit_le_one x)).pow (expSplit x)
  rw [← exp_eq_pow_expSplit] at h
  simpa only [expLower, Rat.cast_pow] using h

theorem expUpper_tendsto {x : ℚ} (hx : 0 ≤ x) :
    Filter.Tendsto (fun n => ((expUpper n x : ℚ) : ℝ)) Filter.atTop (nhds (Real.exp x)) := by
  have hz := div_expSplit_nonneg hx
  have h := ((expSum_tendsto hz (div_expSplit_le_one x)).add (expTail_tendsto hz)).pow (expSplit x)
  rw [add_zero, ← exp_eq_pow_expSplit] at h
  simpa only [expUpper, Rat.cast_pow, Rat.cast_add] using h

/-! ## The exponential of a positive rational is irrational -/

/-- From the approximation of Lindemann's theorem: for a large prime `p` some integer multiple of `exp a`, the multiplier
not divisible by `p`, lies closer to a multiple of `p` than a rational `exp a` could. -/
theorem exp_nat_irrational {a : Nat} (ha : 0 < a) : Irrational (Real.exp a) := by
  rintro ⟨q, hq⟩
  have hq0 : 0 < q := by exact_mod_cast hq ▸ Real.exp_pos (a : ℝ)
  let f : Polynomial ℤ := Polynomial.X - Polynomial.C (a : ℤ)
  have hf0 : f.eval 0 ≠ 0 := by simp [f]; omega
  obtain ⟨c, hc⟩ := LindemannWeierstrass.exp_polynomial_approx f hf0
  have hroot : (a : ℂ) ∈ f.aroots ℂ := by
    rw [Polynomial.mem_aroots]
    exact ⟨Polynomial.X_sub_C_ne_zero _, by simp [f]⟩
  have hsmall : ∀ᶠ n : ℕ in Filter.atTop, (q.den : ℝ) * c * (c ^ n / (n.factorial : ℝ)) < 1 := by
    have h := (FloorSemiring.tendsto_pow_div_factorial_atTop c).const_mul ((q.den : ℝ) * c)
    rw [mul_zero] at h
    exact h.eventually_lt_const one_pos
  obtain ⟨N, hN⟩ := Filter.eventually_atTop.mp hsmall
  obtain ⟨p, hpge, hp⟩ := Nat.exists_infinite_primes (N + 1 + (f.eval 0).natAbs + 1 + q.num.natAbs)
  obtain ⟨n, hn, gp, -, hg⟩ := hc p (by omega) hp
  have hb := hg hroot
  have hev : Polynomial.aeval (a : ℂ) gp = ((gp.eval (a : ℤ) : ℤ) : ℂ) := by
    have := Polynomial.aeval_algebraMap_apply_eq_algebraMap_eval (A := ℂ) (a : ℤ) gp
    simpa using this
  have hexp : Complex.exp (a : ℂ) = ((q : ℝ) : ℂ) := by
    rw [hq]; push_cast; rfl
  have hden : (q : ℝ) * q.den = q.num := by exact_mod_cast congrArg (fun r : ℚ => (r : ℝ)) (Rat.mul_den_eq_num q)
  have hint : |((n * q.num - p * (q.den * gp.eval (a : ℤ)) : ℤ) : ℝ)| < 1 := by
    have h1 : ((n * q.num - p * (q.den * gp.eval (a : ℤ)) : ℤ) : ℝ)
        = q.den * ((n : ℝ) * q - p * (gp.eval (a : ℤ) : ℤ)) := by
      push_cast; rw [← hden]; ring
    have h2 : ‖n • Complex.exp (a : ℂ) - p • Polynomial.aeval (a : ℂ) gp‖
        = |(n : ℝ) * q - p * (gp.eval (a : ℤ) : ℤ)| := by
      rw [hev, hexp, ← Real.norm_eq_abs, ← Complex.norm_real]
      push_cast [zsmul_eq_mul, nsmul_eq_mul]
      rfl
    rw [h2] at hb
    rw [h1, abs_mul, abs_of_nonneg (Nat.cast_nonneg _)]
    refine lt_of_le_of_lt (mul_le_mul_of_nonneg_left hb (Nat.cast_nonneg _)) ?_
    have h3 := hN (p - 1) (by omega)
    have h4 : c ^ p = c * c ^ (p - 1) := by rw [← pow_succ', Nat.sub_add_cancel hp.one_le]
    rw [h4]
    calc _ = (q.den : ℝ) * c * (c ^ (p - 1) / ((p - 1).factorial : ℝ)) := by ring
      _ < 1 := h3
  have hzero : n * q.num - p * (q.den * gp.eval (a : ℤ)) = 0 := by
    rw [← Int.abs_lt_one_iff]; exact_mod_cast hint
  have hdvd : (p : ℤ) ∣ n * q.num := ⟨_, sub_eq_zero.mp hzero⟩
  rcases (Nat.prime_iff_prime_int.mp hp).dvd_or_dvd hdvd with h | h
  · exact hn h
  · have h1 := Int.natAbs_dvd_natAbs.mpr h
    have h2 := Nat.le_of_dvd (Int.natAbs_pos.mpr (Rat.num_pos.mpr hq0).ne') h1
    simp only [Int.natAbs_natCast] at h2
    omega

theorem exp_ne_rat {x : ℚ} (hx : 0 < x) (y : ℚ) : Real.exp x ≠ y := by
  intro h
  have hnum : (x.num.toNat : ℝ) = x * x.den := by
    have h1 : ((x.num.toNat : ℤ) : ℝ) = (x.num : ℝ) := by rw [Int.toNat_of_nonneg (Rat.num_pos.mpr hx).le]
    have h2 : ((x * x.den : ℚ) : ℝ) = ((x.num : ℚ) : ℝ) := by rw [Rat.mul_den_eq_num]
    push_cast at h1 h2
    rw [h1, ← h2]
  refine exp_nat_irrational (a := x.num.toNat) (by have := Rat.num_pos.mpr hx; omega) ⟨y ^ x.den, ?_⟩
  rw [hnum, mul_comm, Real.exp_nat_mul, h, Rat.cast_pow]

/-! ## The comparison -/

/-- Some number of terms decides. -/
theorem exists_expDecides {x : ℚ} (hx : 0 < x) (y : ℚ) : ∃ n, expDecides x y n = true := by
  have hd : ∀ᶠ n in Filter.atTop, expUpper n x ≤ y ∨ y < expLower n x := by
    rcases lt_or_gt_of_ne (exp_ne_rat hx y) with h | h
    · filter_upwards [(expUpper_tendsto hx.le).eventually_le_const h] with n hn
      exact .inl (by exact_mod_cast hn)
    · filter_upwards [(expLower_tendsto hx.le).eventually_const_lt h] with n hn
      exact .inr (by exact_mod_cast hn)
  obtain ⟨n, hn, h0⟩ := (hd.and (Filter.eventually_gt_atTop 0)).exists
  exact ⟨n, by simpa [expDecides, h0] using hn⟩

/-- How many terms are tried first. -/
def expTerms : Nat := 24

/-- How many terms are taken to compare `exp x` with `y`: the first try where it decides, else the least that does. -/
def expTermsFor {x : Rat} (hx : 0 < x) (y : Rat) : Nat :=
  if expDecides x y expTerms then expTerms else Nat.find (exists_expDecides hx y)

/-- `exp x ≤ y`, for `x > 0`. -/
def expLe {x : Rat} (hx : 0 < x) (y : Rat) : Bool := decide (expUpper (expTermsFor hx y) x ≤ y)

theorem expTermsFor_decides {x : ℚ} (hx : 0 < x) (y : ℚ) : expDecides x y (expTermsFor hx y) = true := by
  unfold expTermsFor
  split
  · assumption
  · exact Nat.find_spec (exists_expDecides hx y)

/-- The comparison is exact. -/
theorem expLe_iff {x : ℚ} (hx : 0 < x) (y : ℚ) : expLe hx y = true ↔ Real.exp x ≤ y := by
  have h := expTermsFor_decides hx y
  simp only [expDecides, Bool.and_eq_true, Bool.or_eq_true, decide_eq_true_eq] at h
  obtain ⟨hn, hu | hl⟩ := h
  · exact ⟨fun _ => (exp_le_expUpper hn hx.le).trans (by exact_mod_cast hu), fun _ => by simp [expLe, hu]⟩
  · have hl' : (y : ℝ) < Real.exp x := lt_of_lt_of_le (by exact_mod_cast hl) (expLower_le_exp _ hx.le)
    refine ⟨fun hu => (exp_le_expUpper hn hx.le).trans ?_, fun he => absurd he (not_le.mpr hl')⟩
    exact_mod_cast of_decide_eq_true hu

end Sys2Proof.Machine
end

