-- ==== Sys2Proof/Config.lean ====
section
/-! DEFINITION. What is fixed when an OWT is built (00_scope R12–R17), and the values the spec leaves free
(93_implementation_defined U8, U14, U15). The timing constants of R11 are no parameters: they stand in
Machine/Schedule.lean. -/

namespace Sys2Proof

/-- Divider orientation (R16, R233). -/
inductive Topology where
  | fixedLow   -- the source's formula, the default
  | fixedHigh  -- the spec's own alternative
  deriving DecidableEq, Repr

/-- The thermistor parameters of R13 and the topology of R16. DESIGN CHOICE (log 5): rationals, so that two
configurations can be compared and validity can be computed. ADC_BITS and MAXCODE are fixed by R13. -/
structure ThermParams where
  rRef     : Rat
  t0       : Rat
  beta     : Rat
  rf       : Rat
  vs       : Rat
  topology : Topology
  deriving DecidableEq, Repr

/-- Everything fixed at build time. No step changes it (R13, R54); it is carried beside the state so that a
statement about every state is one about every build (log 4). -/
structure Config where
  owtBase    : Nat          -- R17, OPEN
  convWaitUs : Nat          -- R12
  thLatency  : Nat          -- R14, OPEN
  therm      : ThermParams  -- R13, R16
  deriving DecidableEq, Repr

/-- The defaults of R12, R13 and R16. DESIGN CHOICE (log 4): R17 and R14 give OWT_BASE and TH_LATENCY no
default; both are 0 here. No statement rests on these numbers (R318). -/
def Config.standard : Config where
  owtBase := 0
  convWaitUs := 750000
  thLatency := 0
  therm :=
    { rRef := 8300, t0 := 3016 / 10, beta := 3950, rf := 8600, vs := 33 / 10, topology := .fixedLow }

/-- MAXCODE, the largest ADC code (R13). -/
def Config.maxCode : Nat := 4095

/-- FREE VALUE (log 2): the level `env` of the n-th tick whose level the state does not supply (R9). -/
opaque Config.freeLevel : Nat → Bool

/-- FREE VALUE (log 3): the code `adc_draw()` of the n-th conversion whose code the state does not supply (R231). -/
opaque Config.freeAdc : Nat → BitVec 12

/-- The three binary32 patterns of a conversion (R236). -/
structure ThermResult where
  volt  : Word
  res   : Word
  tempC : Word
  deriving DecidableEq, Repr

/-- FREE VALUE (log 7): ThermNumerics before the properties N2 and N3 are imposed on it. It depends on the
parameters and the code alone (R236 N1). -/
opaque Config.freeNumerics : ThermParams → BitVec 12 → Word × Word × Word

/-- FREE VALUE (log 6): whether a code is out of range (R235) in a build whose BETA or T0 is not positive, which R13
excludes. -/
opaque Config.freeOutOfRange : ThermParams → BitVec 12 → Bool

end Sys2Proof
end

