-- ==== Sys2Proof/WellFormed.lean ====
section
/-! DEFINITION. What makes a command, a build and a host access well formed. -/

namespace Sys2Proof

/-- Every term of `Instr` is a command of the spec: ARG may be any byte (R35) and the other commands carry no
operand, so there is nothing to refuse. -/
def Instr.wellFormed : Instr → Bool
  | .owPullLow _ => true
  | .owRelease _ => true
  | .owReset _ => true
  | .owWriteBit _ => true
  | .owReadBit _ => true
  | .owWriteByte _ => true
  | .owReadByte _ => true
  | .owReadTemp _ => true
  | .thConvert => true
  | .skipRom => true
  | .startConversion => true
  | .readScratchpad => true

/-- Each thermistor parameter is positive (R13). -/
def ThermParams.wellFormed (p : ThermParams) : Bool :=
  decide (0 < p.rRef) && decide (0 < p.t0) && decide (0 < p.beta) && decide (0 < p.rf) && decide (0 < p.vs)

/-- OWT_BASE is a multiple of 64 (R17), CONV_WAIT_US is at least 750000 (R12), and R13 holds. -/
def Config.wellFormed (c : Config) : Bool :=
  decide (c.owtBase % 64 = 0) && decide (750000 ≤ c.convWaitUs) && c.therm.wellFormed

/-- The width of a host access (R82). -/
inductive AccessWidth where
  | byte
  | half
  | word
  deriving DecidableEq, Repr

/-- The accesses OWT defines: 32 bits wide, inside the 64-byte window at `base`, at an offset that is a multiple of 4
(R81, R82). -/
def accessWellFormed (base addr : Nat) (width : AccessWidth) : Bool :=
  decide (base ≤ addr) && decide (addr < base + 64) && decide (width = .word) && decide ((addr - base) % 4 = 0)

end Sys2Proof
end

