-- ==== Sys2Proof/Machine/State.lean ====
section
/-! DEFINITION. The state of OWT (10_state), whole, as plain data; the reasons a step can stop; the state after
reset (R55). -/

namespace Sys2Proof.Machine

/-- BusLine direction (R24, R41). -/
inductive Direction where
  | input   -- released
  | output  -- pulled low
  deriving DecidableEq, Repr

/-- The six timed commands, the values `ow_op` can hold (R43, R112). -/
inductive OwOp where
  | reset
  | writeBit
  | readBit
  | writeByte
  | readByte
  | readTemp
  deriving DecidableEq, Repr

/-- TH_STATUS.REASON (R47, R235). -/
inductive Reason where
  | none
  | zeroVoltage
  | nonpositiveResistance
  | temperatureOutOfRange
  deriving DecidableEq, Repr

/-- The OW unit: registers (R35–R39) and hidden state (R41–R44). LINE_DIR has no field: it mirrors `dir` (R36). -/
structure Ow where
  dir     : Direction      -- ow_dir
  op      : Option OwOp    -- ow_op
  arg     : Byte           -- ow_arg
  k       : Nat            -- ow_k
  samples : List Bool      -- ow_samples, oldest first; true is level 1
  ctrlOp  : BitVec 4       -- OW_CTRL.OP
  ctrlArg : Byte           -- OW_CTRL.ARG
  busy    : Bool           -- OW_STATUS.BUSY
  done    : Bool           -- OW_STATUS.DONE
  present : Bool           -- OW_STATUS.PRESENT
  noPres  : Bool           -- OW_STATUS.NOPRES
  cmdErr  : Bool           -- OW_STATUS.CMD_ERR
  rx      : Byte           -- OW_RXDATA.RX
  tempRaw : Word           -- OW_TEMP_RAW
  tempC   : Word           -- OW_TEMP_C
  deriving DecidableEq, Repr

/-- The TH unit: registers (R47–R51; TH_CTRL stores nothing, R46) and `th_k` (R52). -/
structure Th where
  k       : Nat            -- th_k
  busy    : Bool           -- TH_STATUS.BUSY
  done    : Bool           -- TH_STATUS.DONE
  invalid : Bool           -- TH_STATUS.INVALID
  reason  : Reason         -- TH_STATUS.REASON
  cmdErr  : Bool           -- TH_STATUS.CMD_ERR
  code    : BitVec 12      -- TH_ADC_RAW.CODE
  volt    : Word           -- TH_VOLT
  res     : Word           -- TH_RES
  tempC   : Word           -- TH_TEMP_C
  deriving DecidableEq, Repr

/-- One action of an agent (R7). `poll` is the host's repeated read (R124); `failUnless` is the test of a word just
read on which `ow.read_temp_host` fails (R125). -/
inductive Action where
  | tick
  | reset
  | read (addr : Nat) (width : AccessWidth)
  | write (addr : Nat) (width : AccessWidth) (value : Word)
  | poll (addr : Nat) (width : AccessWidth) (mask value : Word)
  | failUnless (mask value : Word)
  deriving DecidableEq, Repr

/-- The two oracles (R9, R231) as the model's own plain data: draws supplied in advance, next first, and how many
draws have been made. Beyond the supplied ones the free values of Config answer (log 2, 3). -/
structure Draws where
  env     : List Bool
  envUsed : Nat
  adc     : List (BitVec 12)
  adcUsed : Nat
  deriving DecidableEq, Repr

/-- The whole state. `now`, `ow` and `th` are the spec's (R55); `cfg` is the build (R54); `agenda`, `draws` and
`reads` are the model's own (log 1, 2, 3, 15). -/
structure State where
  cfg    : Config
  now    : Nat             -- R10, R33
  ow     : Ow
  th     : Th
  agenda : List Action     -- the actions to come, oldest first
  draws  : Draws
  reads  : List Word       -- what the host's reads returned, newest first
  deriving DecidableEq, Repr

/-- OWT raises no exception and no trap, and never stops the host (R260, R269): there is no fault. Every error of the
spec is a status flag in a next state. Safe: the type is empty, so no claim can rest on one. -/
inductive Fault where
  deriving DecidableEq, Repr

/-- Why the model gives an action no meaning. -/
inductive Refusal where
  /-- Raised by an arm of `exec` whose command has no meaning yet. Safe. -/
  | notModelled (mnemonic : String)
  /-- Raised by a host access to the window of another width than 32 bits or at an offset that is no multiple of 4:
  the model "refuses the access" (R82, U2). Safe. -/
  | undefinedAccess
  /-- Raised by a host access whose address is not in the window: OWT does not decode it, and what it reaches "is the
  platform's concern" (R81; log 12). Safe. -/
  | outsideWindow
  /-- Raised by the three bus commands where the sequencer is not sending that byte: they are "not a host command", and
  OWT sends them inside OW_READ_TEMP only (R118, opcode table; log 8). Safe. -/
  | busByteNotScheduled
  deriving DecidableEq, Repr

/-- The OW unit after reset (R55). -/
def Ow.reset : Ow where
  dir := .input
  op := none
  arg := 0
  k := 0
  samples := []
  ctrlOp := 0
  ctrlArg := 0
  busy := false
  done := false
  present := false
  noPres := false
  cmdErr := false
  rx := 0
  tempRaw := 0
  tempC := 0

/-- The TH unit after reset (R55). -/
def Th.reset : Th where
  k := 0
  busy := false
  done := false
  invalid := false
  reason := .none
  cmdErr := false
  code := 0
  volt := 0
  res := 0
  tempC := 0

/-- The machine of build `c` right after reset (R55, R290), with nothing supplied from outside. DESIGN CHOICE
(log 17): the model's own fields are empty. -/
def State.resetOf (c : Config) : State where
  cfg := c
  now := 0
  ow := Ow.reset
  th := Th.reset
  agenda := []
  draws := ⟨[], 0, [], 0⟩
  reads := []

/-- The machine right after reset (R55), in the build with the spec's defaults (log 4). -/
def State.reset : State := State.resetOf Config.standard

end Sys2Proof.Machine
end

