-- ==== Sys2Proof/Machine/Schedule.lean ====
section
/-! DEFINITION. The timing constants (R11) and the schedules of the timed commands: direction, sample points and
duration as functions of the command, its argument, the offset and the samples (R150, R152; tables R163, R166, R169,
R172, R175, R205). -/

namespace Sys2Proof.Machine

/-! ## R11 -/

/-- T_RST_LOW -/
def tRstLow : Nat := 480
/-- T_RST_SAMPLE -/
def tRstSample : Nat := 70
/-- T_RST_TAIL -/
def tRstTail : Nat := 410
/-- T_RST_SLOT -/
def tRstSlot : Nat := tRstLow + tRstSample + tRstTail
/-- T_W1_LOW -/
def tW1Low : Nat := 6
/-- T_W1_IDLE -/
def tW1Idle : Nat := 64
/-- T_W0_LOW -/
def tW0Low : Nat := 60
/-- T_W0_IDLE -/
def tW0Idle : Nat := 10
/-- T_R_LOW -/
def tRLow : Nat := 6
/-- T_R_SAMPLE -/
def tRSample : Nat := 9
/-- T_R_IDLE -/
def tRIdle : Nat := 55
/-- T_SLOT -/
def tSlot : Nat := 70
/-- T_BYTE (R11, R170) -/
def tByte : Nat := 8 * tSlot

/-! ## The bus bytes of the sequencer (R118) -/

def skipRomByte : Byte := 0xCC
def startConversionByte : Byte := 0x44
def readScratchpadByte : Byte := 0xBE

/-! ## Slots -/

/-- Low for the first `n` ticks of a slot, released after. -/
def lowFor (n j : Nat) : Direction := if j < n then .output else .input

/-- The reset slot (R163). -/
def resetDir (j : Nat) : Direction := lowFor tRstLow j

/-- The presence sample of a reset slot, at 550 (R163). -/
def resetSampleAt (j : Nat) : Bool := j == tRstLow + tRstSample

/-- The write slot of bit `b` (R166, R167). -/
def writeSlotDir (b : Bool) (j : Nat) : Direction := lowFor (if b then tW1Low else tW0Low) j

/-- The read slot (R169). -/
def readSlotDir (j : Nat) : Direction := lowFor tRLow j

/-- The sample of a read slot, at 15 (R169). -/
def readSampleAt (j : Nat) : Bool := j == tRLow + tRSample

/-- Sending byte `v`, LSB first, eight write slots with no gap (R170, R172). -/
def writeByteDir (v : Byte) (j : Nat) : Direction := writeSlotDir (v.getLsbD (j / tSlot)) (j % tSlot)

/-- Receiving a byte: eight read slots with no gap (R175). -/
def readByteDir (j : Nat) : Direction := readSlotDir (j % tSlot)

/-- The samples of a received byte (R175). -/
def readByteSampleAt (j : Nat) : Bool := readSampleAt (j % tSlot)

/-! ## The sequencer of OW_READ_TEMP (R201, R205) -/

/-- What OW_READ_TEMP does at one offset, and the offset inside that piece. -/
inductive Phase where
  | resetSlot (j : Nat)
  | sendByte (v : Byte) (j : Nat)
  | wait
  | readByte (j : Nat)
  | over
  deriving DecidableEq, Repr

/-- `B = 2080 + W`, where the second reset slot starts (R205). -/
def secondReset (w : Nat) : Nat := tRstSlot + 2 * tByte + w

/-- The schedule table of OW_READ_TEMP with `W = w` (R205). -/
def readTempPhase (w k : Nat) : Phase :=
  if k < tRstSlot then .resetSlot k
  else if k < tRstSlot + tByte then .sendByte skipRomByte (k - tRstSlot)
  else if k < tRstSlot + 2 * tByte then .sendByte startConversionByte (k - (tRstSlot + tByte))
  else if k < secondReset w then .wait
  else if k < secondReset w + tRstSlot then .resetSlot (k - secondReset w)
  else if k < secondReset w + tRstSlot + tByte then .sendByte skipRomByte (k - (secondReset w + tRstSlot))
  else if k < secondReset w + tRstSlot + 2 * tByte then
    .sendByte readScratchpadByte (k - (secondReset w + tRstSlot + tByte))
  else if k < secondReset w + tRstSlot + 3 * tByte then .readByte (k - (secondReset w + tRstSlot + 2 * tByte))
  else if k < secondReset w + tRstSlot + 4 * tByte then .readByte (k - (secondReset w + tRstSlot + 3 * tByte))
  else .over

/-- The direction in a phase (R163, R172, R203, R175). -/
def Phase.dir : Phase → Direction
  | .resetSlot j => resetDir j
  | .sendByte v j => writeByteDir v j
  | .wait => .input
  | .readByte j => readByteDir j
  | .over => .input

/-- Whether a phase samples (R205, last column). -/
def Phase.sampleAt : Phase → Bool
  | .resetSlot j => resetSampleAt j
  | .sendByte _ _ => false
  | .wait => false
  | .readByte j => readByteSampleAt j
  | .over => false

/-! ## The schedule functions of R152 -/

/-- `dir(op, arg, k, samples)` (R152). "The directions before a decision point do not depend on the sample" (R205). -/
def dir (w : Nat) (op : OwOp) (arg : Byte) (k : Nat) (_samples : List Bool) : Direction :=
  match op with
  | .reset => resetDir k
  | .writeBit => writeSlotDir (arg.getLsbD 0) k
  | .readBit => readSlotDir k
  | .writeByte => writeByteDir arg k
  | .readByte => readByteDir k
  | .readTemp => (readTempPhase w k).dir

/-- `is_sample(op, k, samples)` (R152). -/
def isSample (w : Nat) (op : OwOp) (k : Nat) (_samples : List Bool) : Bool :=
  match op with
  | .reset => resetSampleAt k
  | .writeBit => false
  | .readBit => readSampleAt k
  | .writeByte => false
  | .readByte => readByteSampleAt k
  | .readTemp => (readTempPhase w k).sampleAt

/-- `duration(op, samples)` (R152): R163, R166, R169, R170, and R205 for OW_READ_TEMP, which ends early where a
presence sample reads 1. -/
def duration (w : Nat) (op : OwOp) (samples : List Bool) : Nat :=
  match op with
  | .reset => tRstSlot
  | .writeBit => tSlot
  | .readBit => tSlot
  | .writeByte => tByte
  | .readByte => tByte
  | .readTemp =>
    if samples[0]? = some true then tRstSlot
    else if samples[1]? = some true then secondReset w + tRstSlot
    else secondReset w + tRstSlot + 4 * tByte

end Sys2Proof.Machine
end

