-- ==== Sys2Proof/Machine/Operands.lean ====
section
/-! DEFINITION. Operands and data formats: ARG (R114), bytes from samples (R87, R174), the scratchpad word (R88, R120,
R204), binary32 (R20, R122). -/

namespace Sys2Proof.Machine

/-- The OP code of a timed command (R112). -/
def OwOp.code : OwOp → BitVec 4
  | .reset => 3
  | .writeBit => 4
  | .readBit => 5
  | .writeByte => 6
  | .readByte => 7
  | .readTemp => 8

/-- `Σ bits[i] · 2^i`, the first bit least significant (R87). -/
def natOfBits : List Bool → Nat
  | [] => 0
  | b :: bs => b.toNat + 2 * natOfBits bs

/-- The byte whose bits are the eight samples from number `start` on, LSB first (R174). -/
def byteOfSamples (start : Nat) (samples : List Bool) : Byte :=
  BitVec.ofNat 8 (natOfBits ((samples.drop start).take 8))

/-- A sample by its number. A command that completes has taken all its samples; DESIGN CHOICE (log 14): one that is
not there reads 1, the level of an undriven line. -/
def sampleAt (samples : List Bool) (n : Nat) : Bool := samples.getD n true

/-- `raw16 = MSB ++ LSB` (R88, R204). -/
def rawTemp (lsb msb : Byte) : BitVec 16 := msb ++ lsb

/-- `sext_32` (R38). -/
def sext32 (v : BitVec 16) : Word := v.signExtend 32

/-- `bits32(SENTINEL)`, −1000.0 (R20). -/
def sentinel : Word := 0xC47A0000

/-- The binary32 pattern of `n / 16`, for `|n| < 2^24`, where it is exact (R20, R122): sign, exponent 127 + (e − 4),
and the bits below the leading one, `e` being the place of that leading one. Zero is +0.0. -/
def f32OfSixteenths (n : Int) : Word :=
  if n = 0 then 0
  else
    let m := n.natAbs
    let e := Nat.log2 m
    BitVec.ofNat 32
      ((if n < 0 then 2 ^ 31 else 0) + (123 + e) * 2 ^ 23 + (m - 2 ^ e) * 2 ^ (23 - e))

/-- `bits32(fp32(int16(raw16) / 16))` (R39, R204). -/
def tempBits (raw : BitVec 16) : Word := f32OfSixteenths raw.toInt

/-- The exponent field of a binary32 pattern (R20). -/
def f32Exp (w : Word) : Nat := (w.extractLsb' 23 8).toNat

/-- The fraction field of a binary32 pattern (R20). -/
def f32Frac (w : Word) : Nat := (w.extractLsb' 0 23).toNat

/-- Whether a binary32 pattern is a number, neither infinity nor NaN (R236 N3). -/
def f32Finite (w : Word) : Bool := f32Exp w != 255

/-- The value of a finite binary32 pattern (R20). -/
def f32Value (w : Word) : Rat :=
  let mag : Rat :=
    if f32Exp w = 0 then mkRat (f32Frac w) (2 ^ 149)
    else mkRat ((2 ^ 23 + f32Frac w) * 2 ^ f32Exp w) (2 ^ 150)
  if w.getLsbD 31 then -mag else mag

/-- A pattern with a finite value, and the pattern itself where it is finite already: imposes R236 N3. -/
def makeFinite (w : Word) : Word := if f32Finite w then w else w &&& 0xFF7FFFFF

end Sys2Proof.Machine
end

