-- ==== Sys2Proof/Machine/Flags.lean ====
section
/-! DEFINITION. The flags: how OW_STATUS, TH_STATUS and OW_CTRL read (R35, R36, R47), and what an acceptance, a
rejection and a completion do to the flags of a unit (R40, R151, R155, R230, R237). -/

namespace Sys2Proof.Machine

/-- LINE_DIR: 1 is Output (R36). -/
def Direction.bit : Direction → Bool
  | .input => false
  | .output => true

/-- OW_STATUS as the host reads it (R36): LINE_DIR, CMD_ERR, NOPRES, PRESENT, DONE, BUSY, from bit 5 down. -/
def owStatusWord (u : Ow) : Word :=
  (0 : BitVec 26) ++ BitVec.ofBool u.dir.bit ++ BitVec.ofBool u.cmdErr ++ BitVec.ofBool u.noPres ++
    BitVec.ofBool u.present ++ BitVec.ofBool u.done ++ BitVec.ofBool u.busy

/-- OW_CTRL as the host reads it: `zext_32(ARG ++ 0b0000 ++ OP)` (R35). -/
def owCtrlWord (u : Ow) : Word := (0 : BitVec 16) ++ u.ctrlArg ++ (0 : BitVec 4) ++ u.ctrlOp

/-- The code of a REASON (R47). -/
def Reason.code : Reason → BitVec 2
  | .none => 0
  | .zeroVoltage => 1
  | .nonpositiveResistance => 2
  | .temperatureOutOfRange => 3

/-- TH_STATUS as the host reads it (R47): CMD_ERR, REASON, INVALID, DONE, BUSY, from bit 5 down. -/
def thStatusWord (h : Th) : Word :=
  (0 : BitVec 26) ++ BitVec.ofBool h.cmdErr ++ h.reason.code ++ BitVec.ofBool h.invalid ++
    BitVec.ofBool h.done ++ BitVec.ofBool h.busy

/-- A rejected write to OW_CTRL sets CMD_ERR "and changes nothing else" (R40, R115). -/
def Ow.reject (u : Ow) : Ow := { u with cmdErr := true }

/-- What every acceptance of an OW command does first (R151): OW_CTRL takes the command, DONE, NOPRES and CMD_ERR are
cleared, the offset and the samples start anew. ARG is latched into `ow_arg` by every OW command (R43, R114; log 11). -/
def Ow.acceptFlags (op : BitVec 4) (arg : Byte) (u : Ow) : Ow :=
  { u with
    ctrlOp := op, ctrlArg := arg, arg := arg, done := false, noPres := false, cmdErr := false, k := 0, samples := [] }

/-- The flags of a completion (R155): BUSY 0, DONE 1, the line released, no command in progress. -/
def Ow.completeFlags (u : Ow) : Ow := { u with dir := .input, busy := false, done := true, op := none }

/-- A rejected TH_CTRL start sets CMD_ERR and nothing else (R230). -/
def Th.reject (h : Th) : Th := { h with cmdErr := true }

/-- The flags of an accepted conversion (R230). -/
def Th.acceptFlags (h : Th) : Th := { h with done := false, invalid := false, reason := .none, cmdErr := false }

end Sys2Proof.Machine
end

