-- ==== Sys2Proof/Machine/Therm.lean ====
section
/-! DEFINITION. The algebra of the thermistor converter in exact rationals (R232, R233), the validity of a code (R235),
and ThermNumerics (R236). -/

namespace Sys2Proof.Machine

/-- `V = c · VS / MAXCODE` (R232). -/
def voltage (p : ThermParams) (c : BitVec 12) : Rat := (c.toNat : Rat) * p.vs / (Config.maxCode : Rat)

/-- `R` in terms of the code, by topology (R233). -/
def resistance (p : ThermParams) (c : BitVec 12) : Rat :=
  match p.topology with
  | .fixedLow => p.rf * ((Config.maxCode : Rat) - (c.toNat : Rat)) / (c.toNat : Rat)
  | .fixedHigh => p.rf * (c.toNat : Rat) / ((Config.maxCode : Rat) - (c.toNat : Rat))

/-- The code whose formula divides by zero (R235, order 1). -/
def zeroDivisorCode : Topology → BitVec 12
  | .fixedLow => 0
  | .fixedHigh => 4095

/-- Whether `D ≤ 0` (R234, R235), "tested on the exact real values": with `T0` and `BETA` positive,
`1/T0 + ln(R/R_REF)/BETA ≤ 0` says `exp(BETA/T0) ≤ R_REF/R`, which `expLe` decides exactly. A build in which they are
not positive is none of R13's, and its answer is free (log 6). -/
def outOfRange (p : ThermParams) (c : BitVec 12) : Bool :=
  if h : 0 < p.beta / p.t0 then expLe h (p.rRef / resistance p c) else Config.freeOutOfRange p c

/-- The first matching reason of R235's table, or none where the sample is valid. -/
def reasonOf (p : ThermParams) (c : BitVec 12) : Reason :=
  if c = zeroDivisorCode p.topology then .zeroVoltage
  else if resistance p c ≤ 0 then .nonpositiveResistance
  else if outOfRange p c then .temperatureOutOfRange
  else .none

/-- ThermNumerics (R236), a free function held to N1 (it is given the parameters and the code only), N2 (code 0 gives
+0.0) and N3 (its results are finite). N4, the accuracy, is a premise a claim states (Safety.lean). Log 7. -/
def thermNumerics (p : ThermParams) (c : BitVec 12) : ThermResult :=
  let f := Config.freeNumerics p c
  { volt := if c = 0 then 0 else makeFinite f.1
    res := makeFinite f.2.1
    tempC := makeFinite f.2.2 }

end Sys2Proof.Machine
end

