-- ==== Sys2Proof/Machine/Ops.lean ====
section
/-! DEFINITION. The named operations over the state: the oracles, the register window, accepting and completing a
command, and the tick. OWT takes no exception and returns from none (R260, R269, R270), so there is no such operation;
a rejected command is `Ow.reject` or `Th.reject` (Flags.lean). -/

namespace Sys2Proof.Machine

/-! ## The oracles (R9, R231) -/

/-- The level of the released line `i` ticks from now: `env(now + i)` (R9; log 2). -/
def State.envAt (s : State) (i : Nat) : Bool :=
  s.draws.env.getD i (Config.freeLevel (s.draws.envUsed + i))

/-- One tick's level is used up. -/
def Draws.takeEnv (d : Draws) : Draws := { d with env := d.env.tail, envUsed := d.envUsed + 1 }

/-- The code the ADC gives to the next conversion: `adc_draw()` (R231; log 3). -/
def State.adcNext (s : State) : BitVec 12 := s.draws.adc.headD (Config.freeAdc s.draws.adcUsed)

/-- One conversion's code is used up. -/
def Draws.takeAdc (d : Draws) : Draws := { d with adc := d.adc.tail, adcUsed := d.adcUsed + 1 }

/-- The level the controller sees: the wired-AND of its own drive and the environment (R9). -/
def lineLevel (d : Direction) (env : Bool) : Bool :=
  match d with
  | .output => false
  | .input => env

/-! ## The register window (R34, R81, R84, R89) -/

/-- The offset an address reaches, if the window holds it (R81). -/
def windowOffset (c : Config) (addr : Nat) : Option Nat :=
  if c.owtBase ≤ addr ∧ addr < c.owtBase + 64 then some (addr - c.owtBase) else none

/-- The word a read of slot `off` returns (R34–R39, R46–R51; reserved slots read 0, R84). -/
def State.readReg (s : State) (off : Nat) : Word :=
  match off with
  | 0x00 => owCtrlWord s.ow
  | 0x04 => owStatusWord s.ow
  | 0x08 => s.ow.rx.setWidth 32
  | 0x0C => s.ow.tempRaw
  | 0x10 => s.ow.tempC
  | 0x24 => thStatusWord s.th
  | 0x28 => s.th.code.setWidth 32
  | 0x2C => s.th.volt
  | 0x30 => s.th.res
  | 0x34 => s.th.tempC
  | _ => 0

/-- The two registers whose write does something (R90). -/
def commandTarget (off : Nat) : Option Target :=
  match off with
  | 0x00 => some .owCtrl
  | 0x20 => some .thCtrl
  | _ => none

/-! ## The OW unit -/

/-- `accept` of a command without ticks (R151, R158, R160). -/
def Ow.acceptLine (op : BitVec 4) (d : Direction) (arg : Byte) (u : Ow) : Ow :=
  { u.acceptFlags op arg with dir := d, done := true }

/-- `accept` of a timed command (R151). -/
def Ow.acceptTimed (w : Nat) (op : OwOp) (arg : Byte) (u : Ow) : Ow :=
  { u.acceptFlags op.code arg with op := some op, busy := true, dir := Machine.dir w op arg 0 [] }

/-- A host write of a line command: rejected while BUSY (R40, R115), else accepted. -/
def Ow.issueLine (op : BitVec 4) (d : Direction) (arg : Byte) (u : Ow) : Ow :=
  if u.busy then u.reject else u.acceptLine op d arg

/-- A host write of a timed command: rejected while BUSY (R40, R115), else accepted. -/
def Ow.issueTimed (w : Nat) (op : OwOp) (arg : Byte) (u : Ow) : Ow :=
  if u.busy then u.reject else u.acceptTimed w op arg

/-- The results of OW_READ_TEMP (R201, R202, R204): the sentinel and NOPRES where a presence sample read 1, else the
word of the two bytes read. Samples 0 and 1 are `s1` and `s2`, 2–9 the LSB and 10–17 the MSB (R205). -/
def Ow.readTempResults (samples : List Bool) (u : Ow) : Ow :=
  if sampleAt samples 0 || sampleAt samples 1 then
    { u with present := false, noPres := true, tempC := sentinel }
  else
    let raw := rawTemp (byteOfSamples 2 samples) (byteOfSamples 10 samples)
    { u with present := true, tempRaw := sext32 raw, tempC := tempBits raw }

/-- The result registers a completing command writes (R155): R162, R168, R174, R201; the writes have none (R165, R171). -/
def Ow.results (op : OwOp) (samples : List Bool) (u : Ow) : Ow :=
  match op with
  | .reset => { u with present := !sampleAt samples 0 }
  | .writeBit => u
  | .readBit => { u with rx := (BitVec.ofBool (sampleAt samples 0)).setWidth 8 }
  | .writeByte => u
  | .readByte => { u with rx := byteOfSamples 0 samples }
  | .readTemp => u.readTempResults samples

/-- `complete()` (R155). -/
def Ow.complete (op : OwOp) (u : Ow) : Ow := (u.results op u.samples).completeFlags

/-- The samples after a tick at offset `k` that saw `level` (R153). -/
def takeSample (w : Nat) (op : OwOp) (k : Nat) (level : Bool) (samples : List Bool) : List Bool :=
  if isSample w op k samples then samples ++ [level] else samples

/-- The tick of a unit that runs `op` (R153). -/
def Ow.run (w : Nat) (op : OwOp) (env : Bool) (u : Ow) : Ow :=
  let samples := takeSample w op u.k (lineLevel u.dir env) u.samples
  let u' := { u with samples := samples, k := u.k + 1 }
  if u.k + 1 = duration w op samples then u'.complete op
  else { u' with dir := Machine.dir w op u.arg (u.k + 1) samples }

/-- The tick step of the OW unit (R153): nothing while idle. DESIGN CHOICE (log 13): BUSY with no command in progress,
which no run reaches (R43), is treated as idle. -/
def Ow.tick (w : Nat) (env : Bool) (u : Ow) : Ow :=
  if u.busy then
    match u.op with
    | some op => u.run w op env
    | none => u
  else u

/-- The byte the sequencer sends during the coming tick, and how many ticks of it are over (R201, R205). -/
def Ow.sending (w : Nat) (u : Ow) : Option (Byte × Nat) :=
  if u.busy then
    match u.op with
    | some .readTemp =>
      match readTempPhase w u.k with
      | .sendByte v j => some (v, j)
      | _ => none
    | _ => none
  else none

/-- The tick of the sequencer while tick `j` of byte `v` is on the line (R118, R172): inside the byte the next direction
is the byte's own; after its last tick it is the schedule's. -/
def Ow.sendTick (w : Nat) (v : Byte) (j : Nat) (u : Ow) : Ow :=
  { u with
    k := u.k + 1
    dir := if j + 1 < tByte then writeByteDir v (j + 1) else Machine.dir w .readTemp u.arg (u.k + 1) u.samples }

/-! ## The TH unit -/

/-- `th_complete()` (R237): TH_VOLT always, TH_RES and TH_TEMP_C only for a valid sample. -/
def Th.complete (p : ThermParams) (h : Th) : Th :=
  let f := thermNumerics p h.code
  let r := reasonOf p h.code
  { h with
    volt := f.volt
    res := if r = .none then f.res else h.res
    tempC := if r = .none then f.tempC else h.tempC
    invalid := r != .none
    reason := r
    busy := false
    done := true }

/-- An accepted conversion of `code` (R230): complete at once if TH_LATENCY = 0. -/
def Th.accept (c : Config) (code : BitVec 12) (h : Th) : Th :=
  let h' := { h.acceptFlags with code := code }
  if c.thLatency = 0 then h'.complete c.therm else { h' with busy := true, k := 0 }

/-- The tick of the TH unit (R230). -/
def Th.tick (c : Config) (h : Th) : Th :=
  if h.busy then
    let h' := { h with k := h.k + 1 }
    if h.k + 1 = c.thLatency then h'.complete c.therm else h'
  else h

/-! ## The machine -/

/-- A tick in which the OW unit becomes `u`: the TH unit steps in the same tick, the tick's level is used up, and then
`now <- t + 1` (R7, R153). -/
def State.tickWith (s : State) (u : Ow) : State :=
  { s with ow := u, th := s.th.tick s.cfg, now := s.now + 1, draws := s.draws.takeEnv }

/-- The timebase step (R10, R153). -/
def State.tick (s : State) : State := s.tickWith (s.ow.tick s.cfg.convWaitUs (s.envAt 0))

/-- The Reset agent's action (R290, R301): every piece of the spec's state to its value in R55. The build, the agenda,
the draws and the words already read are not OWT state and stay (log 16). -/
def State.assertReset (s : State) : State := { s with now := 0, ow := Ow.reset, th := Th.reset }

/-- A host line command: what the OW unit does, and nothing else. -/
def State.issueLine (op : BitVec 4) (d : Direction) (arg : Byte) (s : State) : Host.Outcome State Fault Refusal :=
  .next { s with ow := s.ow.issueLine op d arg }

/-- A host timed command: what the OW unit does, and nothing else. -/
def State.issueTimed (op : OwOp) (arg : Byte) (s : State) : Host.Outcome State Fault Refusal :=
  .next { s with ow := s.ow.issueTimed s.cfg.convWaitUs op arg }

/-- A tick of the sequencer sending `v`; where it is not sending `v` there is nothing to run (R118; log 8). -/
def State.busTick (v : Byte) (s : State) : Host.Outcome State Fault Refusal :=
  match s.ow.sending s.cfg.convWaitUs with
  | some (b, j) =>
    if b = v then .next (s.tickWith (s.ow.sendTick s.cfg.convWaitUs v j)) else .refused .busByteNotScheduled
  | none => .refused .busByteNotScheduled

end Sys2Proof.Machine
end

