-- ==== Sys2Proof/Machine/OwLine.lean ====
section
/-! DEFINITION. The line control commands (40_ow_primitives section 2). -/

namespace Sys2Proof.Machine

/-- OW_PULL_LOW (R158). -/
def execOwPullLow (arg : Byte) (s : State) : Host.Outcome State Fault Refusal := s.issueLine 1 .output arg

/-- OW_RELEASE (R160). -/
def execOwRelease (arg : Byte) (s : State) : Host.Outcome State Fault Refusal := s.issueLine 2 .input arg

end Sys2Proof.Machine
end

