-- ==== Sys2Proof/Machine/OwSequencer.lean ====
section
/-! DEFINITION. The read-temperature command (41_ow_sequencer) and the three bus commands it sends (R118). -/

namespace Sys2Proof.Machine

/-- OW_READ_TEMP (R201, R205). -/
def execOwReadTemp (arg : Byte) (s : State) : Host.Outcome State Fault Refusal := s.issueTimed .readTemp arg

/-- SKIP_ROM, steps 2 and 6 of OW_READ_TEMP (R118): one tick of its 560. -/
def execSkipRom (s : State) : Host.Outcome State Fault Refusal := s.busTick skipRomByte

/-- START_CONVERSION, step 3 of OW_READ_TEMP (R118): one tick of its 560. -/
def execStartConversion (s : State) : Host.Outcome State Fault Refusal := s.busTick startConversionByte

/-- READ_SCRATCHPAD, step 6 of OW_READ_TEMP (R118): one tick of its 560. -/
def execReadScratchpad (s : State) : Host.Outcome State Fault Refusal := s.busTick readScratchpadByte

end Sys2Proof.Machine
end

