-- ==== Sys2Proof/Machine/OwSlots.lean ====
section
/-! DEFINITION. The slot commands (40_ow_primitives sections 3–5). Each exec is the host write that starts the command;
its slots then run on ticks (`Ow.run`), by the schedule of Schedule.lean and the results of `Ow.results`. -/

namespace Sys2Proof.Machine

/-- OW_RESET (R162, R163). -/
def execOwReset (arg : Byte) (s : State) : Host.Outcome State Fault Refusal := s.issueTimed .reset arg

/-- OW_WRITE_BIT (R165, R166). -/
def execOwWriteBit (arg : Byte) (s : State) : Host.Outcome State Fault Refusal := s.issueTimed .writeBit arg

/-- OW_READ_BIT (R168, R169). -/
def execOwReadBit (arg : Byte) (s : State) : Host.Outcome State Fault Refusal := s.issueTimed .readBit arg

/-- OW_WRITE_BYTE (R171, R172). -/
def execOwWriteByte (arg : Byte) (s : State) : Host.Outcome State Fault Refusal := s.issueTimed .writeByte arg

/-- OW_READ_BYTE (R174, R175). -/
def execOwReadByte (arg : Byte) (s : State) : Host.Outcome State Fault Refusal := s.issueTimed .readByte arg

end Sys2Proof.Machine
end

