-- ==== Sys2Proof/Machine/ThConvert.lean ====
section
/-! DEFINITION. The thermistor command (42_thermistor). -/

namespace Sys2Proof.Machine

/-- TH_CONVERT (R230): rejected while BUSY, else the ADC's code is latched and converted. -/
def execThConvert (s : State) : Host.Outcome State Fault Refusal :=
  if s.th.busy then .next { s with th := s.th.reject }
  else .next { s with th := s.th.accept s.cfg s.adcNext, draws := s.draws.takeAdc }

end Sys2Proof.Machine
end

