-- ==== Sys2Proof/Machine/Dispatch.lean ====
section
/-! DEFINITION. One arm per command. -/

namespace Sys2Proof.Machine

def exec (i : Instr) (s : State) : Host.Outcome State Fault Refusal :=
  match i with
  | .owPullLow arg => Sys2Proof.Machine.execOwPullLow arg s
  | .owRelease arg => Sys2Proof.Machine.execOwRelease arg s
  | .owReset arg => Sys2Proof.Machine.execOwReset arg s
  | .owWriteBit arg => Sys2Proof.Machine.execOwWriteBit arg s
  | .owReadBit arg => Sys2Proof.Machine.execOwReadBit arg s
  | .owWriteByte arg => Sys2Proof.Machine.execOwWriteByte arg s
  | .owReadByte arg => Sys2Proof.Machine.execOwReadByte arg s
  | .owReadTemp arg => Sys2Proof.Machine.execOwReadTemp arg s
  | .thConvert => Sys2Proof.Machine.execThConvert s
  | .skipRom => Sys2Proof.Machine.execSkipRom s
  | .startConversion => Sys2Proof.Machine.execStartConversion s
  | .readScratchpad => Sys2Proof.Machine.execReadScratchpad s

end Sys2Proof.Machine
end

