-- ==== Sys2Proof/Machine/Agents.lean ====
section
/-! DEFINITION. What each agent's action does (R7): the timebase's tick, with the sequencer's fetch of its bus
commands; the host's reads, writes and polls; reset; and where a command is put so that the next step runs it. -/

namespace Sys2Proof.Machine

/-- The bus command the sequencer fetches for the coming tick: `ow_k` is the analogue of a program counter (R31), and
the byte its offset selects is decoded (R118). -/
def State.busFetch (s : State) : Option Instr :=
  match s.ow.sending s.cfg.convWaitUs with
  | some (v, _) => (decode .bus [v]).toOption
  | none => none

/-- The timebase's action: a tick, in which a bus command on the line is run as that command (R153, R118). -/
def State.timebase (s : State) : Host.Outcome State Fault Refusal :=
  match s.busFetch with
  | some i => exec i s
  | none => .next s.tick

/-- The offset of an access the window defines, or why it has none (R81, R82). -/
def windowAccess (c : Config) (addr : Nat) (width : AccessWidth) : Except Refusal Nat :=
  match windowOffset c addr with
  | none => .error .outsideWindow
  | some off => if width = .word ∧ off % 4 = 0 then .ok off else .error .undefinedAccess

/-- `MemRead(off, 4)` (R21, R89): the word is noted for the host, and nothing of OWT changes. -/
def State.hostRead (s : State) (addr : Nat) (width : AccessWidth) : Host.Outcome State Fault Refusal :=
  match windowAccess s.cfg addr width with
  | .error r => .refused r
  | .ok off => .next { s with reads := s.readReg off :: s.reads }

/-- A write that decodes to no command: on OW_CTRL it is rejected (R40, R116); on TH_CTRL it has no effect (R117). -/
def State.noCommandWrite (t : Target) (s : State) : State :=
  match t with
  | .owCtrl => { s with ow := s.ow.reject }
  | .thCtrl => s
  | .bus => s

/-- `MemWrite(off, 4, w)` (R21): a command register runs the command its word decodes to (R90, R110, R115); every other
slot ignores the write (R84, R85). -/
def State.hostWrite (s : State) (addr : Nat) (width : AccessWidth) (w : Word) : Host.Outcome State Fault Refusal :=
  match windowAccess s.cfg addr width with
  | .error r => .refused r
  | .ok off =>
    match commandTarget off with
    | none => .next s
    | some t =>
      match decode t (lanesOfWord w) with
      | .ok i => exec i s
      | .error _ => .next (s.noCommandWrite t)

/-- Whether a read would satisfy `poll OFF, MASK, VAL` (R124). -/
def State.pollHolds (s : State) (off : Nat) (mask value : Word) : Bool := s.readReg off &&& mask == value

/-- One round of `poll` (R124), met with `s` whose agenda is what follows the poll: where the condition holds the host
goes on; where it does not, a tick passes and the poll stands. -/
def State.hostPoll (s : State) (addr : Nat) (width : AccessWidth) (mask value : Word) :
    Host.Outcome State Fault Refusal :=
  match windowAccess s.cfg addr width with
  | .error r => .refused r
  | .ok off =>
    if s.pollHolds off mask value then .next s
    else { s with agenda := .poll addr width mask value :: s.agenda }.timebase

/-- `if …=0 then fail` of R125: the host gives up the rest of its program unless the word it read last has the bits. -/
def State.hostTest (s : State) (mask value : Word) : State :=
  if s.reads.headD 0 &&& mask = value then s else { s with agenda := [] }

/-- An action, met with a state whose agenda is what follows it. -/
def State.act (a : Action) (s : State) : Host.Outcome State Fault Refusal :=
  match a with
  | .tick => s.timebase
  | .reset => .next s.assertReset
  | .read addr width => s.hostRead addr width
  | .write addr width w => s.hostWrite addr width w
  | .poll addr width mask value => s.hostPoll addr width mask value
  | .failUnless mask value => .next (s.hostTest mask value)

/-- The next action: the agenda's first, or a tick where the agenda is empty (log 1). -/
def State.nextAction (s : State) : Action := s.agenda.headD .tick

/-- The state without its next action. -/
def State.popped (s : State) : State := { s with agenda := s.agenda.tail }

/-! ## Host notation (R124, R125) -/

/-- `wr OFF, V` -/
def State.wr (s : State) (off : Nat) (v : Word) : Action := .write (s.cfg.owtBase + off) .word v

/-- `rd OFF` -/
def State.rd (s : State) (off : Nat) : Action := .read (s.cfg.owtBase + off) .word

/-- `poll OFF, MASK, VAL` -/
def State.pollAction (s : State) (off : Nat) (mask value : Word) : Action :=
  .poll (s.cfg.owtBase + off) .word mask value

/-- `wait N` -/
def waitActions (n : Nat) : List Action := List.replicate n .tick

/-- The pseudo-instruction `ow.read_temp_host` (R125). The words it reads are noted newest first: msb, lsb, s2, s1. -/
def State.readTempHost (s : State) : List Action :=
  let issue (w : Word) : List Action := [s.wr 0x00 w, s.pollAction 0x04 1 0]
  let reset : List Action := issue 0x00000003 ++ [s.rd 0x04, .failUnless 4 4]
  reset ++ issue 0x0000CC06 ++ issue 0x00004406 ++ waitActions s.cfg.convWaitUs ++
    reset ++ issue 0x0000CC06 ++ issue 0x0000BE06 ++
    issue 0x00000007 ++ [s.rd 0x08] ++ issue 0x00000007 ++ [s.rd 0x08]

/-! ## Where a command is put for the next step -/

/-- A host write of `w` to the slot `off` as the next action. -/
def State.placeWrite (s : State) (off : Nat) (w : Word) : State := { s with agenda := s.wr off w :: s.agenda }

/-- OW_READ_TEMP under way at the first tick of a byte at offset `k`, having seen presence at each of `n` reset slots,
and a tick as the next action (log 10). -/
def State.placeSending (s : State) (k n : Nat) : State :=
  let w := s.cfg.convWaitUs
  let samples := List.replicate n false
  { s with
    ow := { s.ow.acceptTimed w .readTemp 0 with k := k, samples := samples, dir := Machine.dir w .readTemp 0 k samples }
    agenda := .tick :: s.agenda }

/-- Where the sequencer first fetches a bus command (R205). -/
def State.placeBus (s : State) (i : Instr) : State :=
  match i with
  | .skipRom => s.placeSending tRstSlot 1
  | .startConversion => s.placeSending (tRstSlot + tByte) 1
  | .readScratchpad => s.placeSending (secondReset s.cfg.convWaitUs + tRstSlot + tByte) 2
  | _ => s

/-- The table's word put where the next step runs it: a bus byte under the sequencer, a command word as a host write to
the register `decodeTableWord` reads it for (log 9, 10). -/
def State.placeTableWord (s : State) (nbits w : Nat) : State :=
  match decodeTableWord nbits w with
  | none => if nbits ≤ 8 then s else s.placeWrite 0x00 (BitVec.ofNat 32 w)
  | some i =>
    match i.target with
    | .owCtrl => s.placeWrite 0x00 (BitVec.ofNat 32 w)
    | .thCtrl => s.placeWrite 0x20 (BitVec.ofNat 32 w)
    | .bus => s.placeBus i

end Sys2Proof.Machine
end

