-- ==== Sys2Proof/Machine/Step.lean ====
section
/-! DEFINITION. One step: the next action of the agents (R7, R8). -/

namespace Sys2Proof.Machine

/-- The step takes the agenda's first action, or a tick (log 1). -/
def step (s : State) : Host.Outcome State Fault Refusal := s.popped.act s.nextAction

/-- `s` with a table word where the next step fetches and runs it (log 9, 10). -/
def State.withFetchWord (s : State) (nbits w : Nat) : State := s.placeTableWord nbits w

end Sys2Proof.Machine
end

