-- ==== Sys2Proof/Safety.lean ====
section
/-! DEFINITION. The terms claims are stated in: time passing, the bus waveform, the invariants of a safe run, and the
thermistor's algebra over the reals (R232–R236). -/

namespace Sys2Proof.Machine

/-! ## Time -/

/-- `n` ticks in a row (R10). -/
def State.ticks : Nat → State → State
  | 0, s => s
  | n + 1, s => State.ticks n s.tick

/-- Whether the block pulls the line low during the coming tick (R154). -/
def State.drivesLow (s : State) : Bool := s.ow.dir.bit

/-- Whether the write slots of byte `v`, LSB first, the first of them at offset `start`, have the line low at offset `n`
(R170, R172). -/
def byteLow (v : Byte) (start n : Nat) : Prop :=
  start ≤ n ∧ n < start + 560 ∧ (n - start) % 70 < if v.getLsbD ((n - start) / 70) then 6 else 60

/-- The eight levels at the sample points of the read slots that start `base` ticks from now, as a byte (R174, R175). -/
def State.byteOnLine (s : State) (base : Nat) : Byte :=
  BitVec.ofNat 8 (natOfBits ((List.range 8).map fun i => s.envAt (base + 70 * i + 15)))

/-- The result registers of the OW unit (R91, R155). -/
def Ow.resultRegs (u : Ow) : Bool × Bool × Byte × Word × Word := (u.present, u.noPres, u.rx, u.tempRaw, u.tempC)

/-! ## Invariants -/

/-- How many samples a command has taken when its offset is `k` (R163, R169, R175, R205). -/
def samplesTaken (w : Nat) (op : OwOp) (k : Nat) : Nat :=
  match op with
  | .reset => if k ≤ 550 then 0 else 1
  | .writeBit => 0
  | .readBit => if k ≤ 15 then 0 else 1
  | .writeByte => 0
  | .readByte => (k + 54) / 70
  | .readTemp =>
    if k ≤ 550 then 0
    else if k ≤ secondReset w + 550 then 1
    else if k ≤ secondReset w + 2080 then 2
    else 2 + (k - (secondReset w + 2080) + 54) / 70

/-- A command in progress is on its schedule (R43, R44, R152, R153), and OW_CTRL still shows it (R35, R98). -/
structure Ow.OnSchedule (w : Nat) (u : Ow) : Prop where
  busy_iff : u.busy = u.op.isSome
  before_end : ∀ op, u.op = some op → u.k < duration w op u.samples
  on_line : ∀ op, u.op = some op → u.dir = Machine.dir w op u.arg u.k u.samples
  sampled : ∀ op, u.op = some op → u.samples.length = samplesTaken w op u.k
  shown : ∀ op, u.op = some op → u.ctrlOp = op.code ∧ u.ctrlArg = u.arg

/-- What the OW flags and registers say together (R35, R36, R38, R155, R202). -/
structure Ow.FlagsAgree (u : Ow) : Prop where
  not_busy_and_done : ¬(u.busy = true ∧ u.done = true)
  no_presence : u.noPres = true → u.done = true ∧ u.present = false ∧ u.tempC = sentinel
  raw_extended : u.tempRaw = sext32 (u.tempRaw.setWidth 16)
  legal_op : u.ctrlOp.toNat ≤ 8

/-- The release invariant (R42): with no command in progress the line is driven only where the last accepted command is
OW_PULL_LOW. -/
def Ow.ReleasedUnlessHeld (u : Ow) : Prop := u.busy = false → u.dir = .output → u.ctrlOp = 1

/-- What the TH registers say together (R47, R49–R52, R236 N3, R237): where DONE is set they are the results of the
latched code. -/
structure Th.ResultsAgree (c : Config) (h : Th) : Prop where
  not_busy_and_done : ¬(h.busy = true ∧ h.done = true)
  reason_iff : h.invalid = (h.reason != .none)
  before_end : h.busy = true → h.k < c.thLatency
  volt_finite : f32Finite h.volt = true
  res_finite : f32Finite h.res = true
  tempC_finite : f32Finite h.tempC = true
  done_reason : h.done = true → h.reason = reasonOf c.therm h.code
  done_volt : h.done = true → h.volt = (thermNumerics c.therm h.code).volt
  done_res : h.done = true → h.reason = .none → h.res = (thermNumerics c.therm h.code).res
  done_tempC : h.done = true → h.reason = .none → h.tempC = (thermNumerics c.therm h.code).tempC

/-- The invariant of every run. -/
structure State.Inv (s : State) : Prop where
  schedule : s.ow.OnSchedule s.cfg.convWaitUs
  flags : s.ow.FlagsAgree
  released : s.ow.ReleasedUnlessHeld
  results : s.th.ResultsAgree s.cfg

/-- Whether an action is one of the host's accesses and, if so, one OWT defines (R81, R82); every other action always
is. -/
def Action.defined (base : Nat) : Action → Bool
  | .tick => true
  | .reset => true
  | .read addr width => accessWellFormed base addr width
  | .write addr width _ => accessWellFormed base addr width
  | .poll addr width _ _ => accessWellFormed base addr width
  | .failUnless _ _ => true

/-! ## The algebra over the reals -/

/-- `V` of R232. -/
noncomputable def realVolt (p : ThermParams) (c : BitVec 12) : ℝ := (c.toNat : ℝ) * (p.vs : ℝ) / 4095

/-- `R` of R233. -/
noncomputable def realRes (p : ThermParams) (c : BitVec 12) : ℝ :=
  match p.topology with
  | .fixedLow => (p.rf : ℝ) * (4095 - (c.toNat : ℝ)) / (c.toNat : ℝ)
  | .fixedHigh => (p.rf : ℝ) * (c.toNat : ℝ) / (4095 - (c.toNat : ℝ))

/-- `D` of R234 for a resistance `r`. -/
noncomputable def realD (p : ThermParams) (r : ℝ) : ℝ := 1 / (p.t0 : ℝ) + Real.log (r / (p.rRef : ℝ)) / (p.beta : ℝ)

/-- `TC` of R234 for a resistance `r`, in degrees Celsius. -/
noncomputable def realTempC (p : ThermParams) (r : ℝ) : ℝ := 1 / realD p r - 273.15

/-- Property N4 of R236: the accuracy of ThermNumerics with the open bounds EPS_V, EPS_R and EPS_T. A claim that needs
it takes it as a premise. -/
def Accurate (p : ThermParams) (epsV epsR epsT : ℝ) : Prop :=
  (∀ c, |((f32Value (thermNumerics p c).volt : ℚ) : ℝ) - realVolt p c| ≤ epsV * |realVolt p c|) ∧
  ∀ c, reasonOf p c = .none →
    |((f32Value (thermNumerics p c).res : ℚ) : ℝ) - realRes p c| ≤ epsR * |realRes p c| ∧
    |((f32Value (thermNumerics p c).tempC : ℚ) : ℝ) - realTempC p (realRes p c)| ≤ epsT

end Sys2Proof.Machine
end

