-- ==== Sys2Proof/Certificates/Slice0/Obligations.lean ====
section
/-! DEFINITION. The statements for the provers. Each docstring names the rule it formalises; a clause that rests on a
choice of the model names its log entry. -/

open Sys2Proof Sys2Proof.Machine

/-! ## Reset -/

/-- R55, R291: after reset every piece of state has the value of R55's table, in every build: the hidden state, and every
register as the host reads it (a register's word is 0 only if each of its fields is). -/
def Obligations.ResetStateIsR55 : Prop :=
  ∀ c : Config,
    (State.resetOf c).now = 0 ∧ (State.resetOf c).ow.dir = .input ∧ (State.resetOf c).ow.op = none ∧
    (State.resetOf c).ow.arg = 0 ∧ (State.resetOf c).ow.k = 0 ∧ (State.resetOf c).ow.samples = [] ∧
    (State.resetOf c).th.k = 0 ∧ ∀ off, (State.resetOf c).readReg off = 0

/-- R290: the Reset agent's action, in any state: every piece of the spec's state takes its value after reset, `now`
included, whatever was under way. The build, the rest of the agenda, the draws and the words read stay (log 16). -/
def Obligations.ResetActionRestoresAll : Prop :=
  ∀ s rest, s.agenda = Action.reset :: rest →
    ∃ t, step s = .next t ∧ t.now = 0 ∧ t.ow = (State.resetOf s.cfg).ow ∧ t.th = (State.resetOf s.cfg).th ∧
      t.cfg = s.cfg ∧ t.agenda = rest ∧ t.draws = s.draws ∧ t.reads = s.reads

/-! ## The register window -/

/-- R34–R39 and R46–R51: what each register reads as, bit by bit for the two status words and field by field for
OW_CTRL. LINE_DIR is the direction itself, and REASON is 1 for a zero voltage, 2 for a nonpositive resistance, 3 for a
temperature out of range, and 0 for none. -/
def Obligations.RegistersReadAsMapped : Prop :=
  ∀ s : State,
    (∀ i, i < 32 → (s.readReg 0x04).getLsbD i =
      ((i == 0 && s.ow.busy) || (i == 1 && s.ow.done) || (i == 2 && s.ow.present) || (i == 3 && s.ow.noPres) ||
        (i == 4 && s.ow.cmdErr) || (i == 5 && decide (s.ow.dir = .output)))) ∧
    (∀ i, i < 32 → (s.readReg 0x24).getLsbD i =
      ((i == 0 && s.th.busy) || (i == 1 && s.th.done) || (i == 2 && s.th.invalid) ||
        (i == 3 && decide (s.th.reason = .zeroVoltage ∨ s.th.reason = .temperatureOutOfRange)) ||
        (i == 4 && decide (s.th.reason = .nonpositiveResistance ∨ s.th.reason = .temperatureOutOfRange)) ||
        (i == 5 && s.th.cmdErr))) ∧
    (s.readReg 0x00).toNat = s.ow.ctrlArg.toNat * 2 ^ 8 + s.ow.ctrlOp.toNat ∧
    (s.readReg 0x08).toNat = s.ow.rx.toNat ∧ s.readReg 0x0C = s.ow.tempRaw ∧ s.readReg 0x10 = s.ow.tempC ∧
    s.readReg 0x20 = 0 ∧ (s.readReg 0x28).toNat = s.th.code.toNat ∧ s.readReg 0x2C = s.th.volt ∧
    s.readReg 0x30 = s.th.res ∧ s.readReg 0x34 = s.th.tempC

/-- R89: a read changes nothing of OWT; only the word is noted for the host (log 15), and reading again gives the same
word. -/
def Obligations.ReadsHaveNoSideEffect : Prop :=
  ∀ s rest off, s.agenda = Action.read (s.cfg.owtBase + off) .word :: rest → off < 64 → off % 4 = 0 →
    ∃ t, step s = .next t ∧ t = { s with agenda := rest, reads := s.readReg off :: s.reads } ∧
      ∀ off', t.readReg off' = s.readReg off'

/-- R84 and R85: a write to a read-only register or to a reserved slot changes nothing, error flags included, and a
reserved slot reads 0. -/
def Obligations.WritesToOtherSlotsIgnored : Prop :=
  (∀ s rest v, ∀ off ∈ [0x04, 0x08, 0x0C, 0x10, 0x14, 0x18, 0x1C, 0x24, 0x28, 0x2C, 0x30, 0x34, 0x38, 0x3C],
    s.agenda = Action.write (s.cfg.owtBase + off) .word v :: rest → step s = .next { s with agenda := rest }) ∧
  ∀ s : State, ∀ off ∈ [0x14, 0x18, 0x1C, 0x38, 0x3C], s.readReg off = 0

/-- R82: an access to the window of another width, or at an offset that is no multiple of 4, is refused; a read, a write
and a poll alike. -/
def Obligations.UndefinedAccessRefused : Prop :=
  ∀ s rest width off v m, off < 64 → (width ≠ AccessWidth.word ∨ off % 4 ≠ 0) →
    (s.agenda = Action.read (s.cfg.owtBase + off) width :: rest ∨
      s.agenda = Action.write (s.cfg.owtBase + off) width v :: rest ∨
      s.agenda = Action.poll (s.cfg.owtBase + off) width m v :: rest) →
    step s = .refused .undefinedAccess

/-- R93 and R292: the machine takes a step in every state in which the next action is a tick, reset, a test of the host's,
or an access the window defines, and refuses every other action. That an address outside the window is refused is the
model's choice (log 12). -/
def Obligations.StepsUnlessAccessUndefined : Prop :=
  ∀ s : State, ((∃ t, step s = .next t) ↔ s.nextAction.defined s.cfg.owtBase = true) ∧
    (s.nextAction.defined s.cfg.owtBase = false →
      step s = .refused .undefinedAccess ∨ step s = .refused .outsideWindow)

/-- R124: a poll whose condition holds lets the host go on at that instant, and one whose condition does not hold stands.
That an unmet poll is one action, in which exactly one tick passes, is the model's choice (log 15). -/
def Obligations.PollWaitsForItsCondition : Prop :=
  ∀ s rest off mask value, s.agenda = Action.poll (s.cfg.owtBase + off) .word mask value :: rest → off < 64 →
    off % 4 = 0 →
    (s.readReg off &&& mask = value → step s = .next { s with agenda := rest }) ∧
    (s.readReg off &&& mask ≠ value → step s = .next s.tick)

/-! ## Encoding -/

/-- R86: register bit `8i + j` is bit `j` of byte lane `i`, and the four lanes make up the word. -/
def Obligations.ByteLanesLittleEndian : Prop :=
  (∀ (w : Word) (i j : Nat), i < 4 → j < 8 → (byteLane w i).getLsbD j = w.getLsbD (8 * i + j)) ∧
  ∀ w : Word, wordOfLanes (byteLane w 0) (byteLane w 1) (byteLane w 2) (byteLane w 3) = w

/-- R123 and R118: words written out from the spec's syntax table decode to the commands they stand for. -/
def Obligations.SpecWordsDecode : Prop :=
  decode .owCtrl [0x01, 0x00, 0x00, 0x00] = .ok (.owPullLow 0) ∧
  decode .owCtrl [0x03, 0x00, 0x00, 0x00] = .ok (.owReset 0) ∧
  decode .owCtrl [0x04, 0x01, 0x00, 0x00] = .ok (.owWriteBit 1) ∧
  decode .owCtrl [0x06, 0xCC, 0x00, 0x00] = .ok (.owWriteByte 0xCC) ∧
  decode .owCtrl [0x08, 0x00, 0x00, 0x00] = .ok (.owReadTemp 0) ∧
  decode .thCtrl [0x01, 0x00, 0x00, 0x00] = .ok .thConvert ∧
  decode .bus [0xCC] = .ok .skipRom ∧ decode .bus [0x44] = .ok .startConversion ∧
  decode .bus [0xBE] = .ok .readScratchpad

/-- R111–R113, R116–R118, as the opcode table's match and mask: a word is a command exactly where its OP bits match the
row, ARG is bits 15:8, the other bits do not matter, and a bus byte is a command where it is one of the three. -/
def Obligations.DecodingFollowsOpcodeTable : Prop :=
  (∀ (w : Word) (p : BitVec 32 × (Byte → Instr)), p ∈ [(1#32, Instr.owPullLow), (2#32, Instr.owRelease),
      (3#32, Instr.owReset), (4#32, Instr.owWriteBit), (5#32, Instr.owReadBit), (6#32, Instr.owWriteByte),
      (7#32, Instr.owReadByte), (8#32, Instr.owReadTemp)] →
    ∀ arg, decodeOw w = .ok (p.2 arg) ↔ w &&& 0xF#32 = p.1 ∧ arg = (w >>> 8).setWidth 8) ∧
  (∀ w : Word, (∃ e, decodeOw w = .error e) ↔ w &&& 0xF#32 = 0#32 ∨ 9 ≤ (w &&& 0xF#32).toNat) ∧
  (∀ w : Word, decodeTh w = .ok .thConvert ↔ w &&& 1#32 = 1#32) ∧
  (∀ v : Byte, (decodeBus v = .ok .skipRom ↔ v = 0xCC#8) ∧ (decodeBus v = .ok .startConversion ↔ v = 0x44#8) ∧
    (decodeBus v = .ok .readScratchpad ↔ v = 0xBE#8))

/-- Headline of the encoding: decoding what the encoder gives for any command gives the command back, and whatever bytes
decode to a command are the encoder's, but for the reserved bits (R117), which the encoder leaves 0. -/
def Obligations.DecodeEncodeAgree : Prop :=
  (∀ i : Instr, decode (encode i).target (encode i).bytes = .ok i) ∧
  ∀ (t : Target) (bytes : List Byte) (i : Instr), decode t bytes = .ok i →
    i.target = t ∧ bytes.length = (encode i).bytes.length ∧
    ∀ n, (encode i).bytes.getD n 0 =
      match t with
      | .owCtrl => if n = 0 then bytes.getD 0 0 &&& 0x0F#8 else if n = 1 then bytes.getD 1 0 else 0
      | .thCtrl => if n = 0 then bytes.getD 0 0 &&& 0x01#8 else 0
      | .bus => bytes.getD n 0

/-! ## A step runs the decoded command -/

/-- R90, R110, R115: a host write to a command register runs, as one step, the command its word decodes to; a word that
decodes to none is rejected on OW_CTRL (R116) and does nothing on TH_CTRL (R117). -/
def Obligations.StepRunsWrittenCommand : Prop :=
  ∀ s rest w t off, (t = Target.owCtrl ∧ off = 0x00 ∨ t = Target.thCtrl ∧ off = 0x20) →
    s.agenda = Action.write (s.cfg.owtBase + off) .word w :: rest →
    (∀ i, decode t (lanesOfWord w) = .ok i → step s = exec i { s with agenda := rest }) ∧
    ((∃ e, decode t (lanesOfWord w) = .error e) →
      step s = .next (if t = .owCtrl then { s with agenda := rest, ow := { s.ow with cmdErr := true } }
        else { s with agenda := rest }))

/-- R31, R118: while OW_READ_TEMP has a bus byte on the line, a tick runs the command that byte decodes to. That each of
its ticks is one exec is the model's reading (log 8). -/
def Obligations.StepRunsBusCommandOnTheLine : Prop :=
  ∀ s v j i, s.nextAction = Action.tick → s.ow.sending s.cfg.convWaitUs = some (v, j) → decode .bus [v] = .ok i →
    step s = exec i s.popped

/-- The model's placing of a table word (log 9, 10): the next step runs the command the word decodes to. -/
def Obligations.PlacedWordRunsNext : Prop :=
  (∀ (s : State) (w : Word) i, decodeOw w = .ok i → step (s.withFetchWord 32 w.toNat) = exec i s) ∧
  (∀ (s : State) (w : Word), (∃ e, decodeOw w = .error e) → decodeTh w = .ok .thConvert →
    step (s.withFetchWord 32 w.toNat) = exec .thConvert s) ∧
  ∀ (s : State) (v : Byte) i, decodeBus v = .ok i →
    ∃ s', step (s.withFetchWord 8 v.toNat) = exec i s' ∧ (∃ t, exec i s' = .next t) ∧ s'.cfg = s.cfg ∧ s'.now = s.now ∧
      s'.th = s.th ∧ s'.agenda = s.agenda ∧ s'.draws = s.draws ∧ s'.reads = s.reads

/-! ## Host commands of the OW unit -/

/-- R158 and R160: with the unit idle, OW_PULL_LOW and OW_RELEASE complete in the write, with DONE set, NOPRES and CMD_ERR
cleared and the line driven or released; nothing else changes. OW_CTRL shows the command (R35). That ARG is latched into
`ow_arg` by these two commands too is the model's reading (log 11): R43 and R114 say so, R151's pseudocode does not. -/
def Obligations.LineCommandsComplete : Prop :=
  ∀ (s : State) (arg : Byte), s.ow.busy = false →
    exec (.owPullLow arg) s = .next { s with ow := { s.ow with
      ctrlOp := 1, ctrlArg := arg, arg := arg, done := true, noPres := false, cmdErr := false, k := 0, samples := [],
      dir := .output } } ∧
    exec (.owRelease arg) s = .next { s with ow := { s.ow with
      ctrlOp := 2, ctrlArg := arg, arg := arg, done := true, noPres := false, cmdErr := false, k := 0, samples := [],
      dir := .input } }

/-- R151: with the unit idle each of the six timed commands is accepted: the command is latched, BUSY set, DONE, NOPRES and
CMD_ERR cleared, the offset and the samples start anew, and the line is driven low for the first tick (R163, R166, R169,
R172, R175, R205); nothing else changes. -/
def Obligations.TimedCommandsAccepted : Prop :=
  ∀ (s : State) (arg : Byte), s.ow.busy = false →
    ∀ p ∈ [(Instr.owReset arg, OwOp.reset, 3#4), (Instr.owWriteBit arg, OwOp.writeBit, 4#4),
      (Instr.owReadBit arg, OwOp.readBit, 5#4), (Instr.owWriteByte arg, OwOp.writeByte, 6#4),
      (Instr.owReadByte arg, OwOp.readByte, 7#4), (Instr.owReadTemp arg, OwOp.readTemp, 8#4)],
    exec p.1 s = .next { s with ow := { s.ow with
      ctrlOp := p.2.2, ctrlArg := arg, done := false, noPres := false, cmdErr := false, k := 0, samples := [],
      op := some p.2.1, arg := arg, busy := true, dir := .output } }

/-- R40 and R116: a host write to OW_CTRL while BUSY, or with an illegal OP, sets CMD_ERR and changes nothing else. -/
def Obligations.RejectedWriteSetsOnlyCmdErr : Prop :=
  ∀ s rest w, s.agenda = Action.write (s.cfg.owtBase + 0x00) .word w :: rest →
    (s.ow.busy = true ∨ (w &&& 0xF#32).toNat = 0 ∨ 9 ≤ (w &&& 0xF#32).toNat) →
    step s = .next { s with agenda := rest, ow := { s.ow with cmdErr := true } }

/-- R157: while a command runs, no step but reset stops or changes it: the unit still runs the same command with the same
argument, or it has reached the command's end and shows DONE. Host reads and writes leave all of the unit but CMD_ERR. -/
def Obligations.OnlyResetStopsACommand : Prop :=
  ∀ s t op, s.ow.busy = true → s.ow.op = some op → s.nextAction ≠ Action.reset → step s = .next t →
    (t.ow.busy = true ∧ t.ow.op = some op ∧ t.ow.arg = s.ow.arg ∧ t.ow.ctrlOp = s.ow.ctrlOp ∧
        t.ow.ctrlArg = s.ow.ctrlArg ∧ s.ow.k ≤ t.ow.k ∧ t.ow.k ≤ s.ow.k + 1 ∨
      t.ow.busy = false ∧ t.ow.done = true ∧ t.ow.k = s.ow.k + 1 ∧
        t.ow.k = duration s.cfg.convWaitUs op t.ow.samples) ∧
    (t.now = s.now → t.ow = s.ow ∨ t.ow = { s.ow with cmdErr := true })

/-! ## Ticks -/

/-- R153, with R155's completion: the timebase's step is the tick of the spec, also while a bus command is on the line. -/
def Obligations.TickStepIsR153 : Prop :=
  ∀ s : State, s.nextAction = Action.tick →
    ∃ t, step s = .next t ∧ t.now = s.now + 1 ∧ t.th = s.th.tick s.cfg ∧ t.cfg = s.cfg ∧ t.agenda = s.agenda.tail ∧
      t.reads = s.reads ∧ (∀ i, t.envAt i = s.envAt (i + 1)) ∧
      (s.ow.busy = false → t.ow = s.ow) ∧
      ∀ op, s.ow.busy = true → s.ow.op = some op →
        let w := s.cfg.convWaitUs
        let line := if s.ow.dir = .output then false else s.envAt 0
        let samples := if isSample w op s.ow.k s.ow.samples = true then s.ow.samples ++ [line] else s.ow.samples
        t.ow = if s.ow.k + 1 = duration w op samples
          then { Ow.results op samples { s.ow with samples := samples, k := s.ow.k + 1 } with
            dir := .input, busy := false, done := true, op := none }
          else { s.ow with samples := samples, k := s.ow.k + 1, dir := dir w op s.ow.arg (s.ow.k + 1) samples }

/-- R118, R172, R205: at the offsets where OW_READ_TEMP sends a bus byte, the unit moves one offset on and drives the
byte's write slots, LSB first. That the byte's command is an exec, which answers one tick of its 560 (the tick of the spec,
as `TickStepIsR153` says it), is the model's reading (log 8). -/
def Obligations.BusCommandsSendTheirByte : Prop :=
  ∀ (s : State) (p : Instr × Byte × Nat),
    p ∈ [(Instr.skipRom, 0xCC#8, 960), (Instr.skipRom, 0xCC#8, 2080 + s.cfg.convWaitUs + 960),
      (Instr.startConversion, 0x44#8, 1520), (Instr.readScratchpad, 0xBE#8, 2080 + s.cfg.convWaitUs + 1520)] →
    s.ow.busy = true → s.ow.op = some .readTemp → p.2.2 ≤ s.ow.k → s.ow.k < p.2.2 + 560 →
    exec p.1 s = .next s.tick ∧
    s.tick.ow = { s.ow with k := s.ow.k + 1, dir := s.tick.ow.dir } ∧
    (s.ow.k + 1 < p.2.2 + 560 →
      (s.tick.ow.dir = .output ↔
        (s.ow.k + 1 - p.2.2) % 70 < if p.2.1.getLsbD ((s.ow.k + 1 - p.2.2) / 70) then 6 else 60))

/-- R118 and the opcode table ("not a host command"): where the sequencer is not sending its byte a bus command has nothing
to run, and the model refuses it by name (log 8). -/
def Obligations.BusCommandsRefusedElsewhere : Prop :=
  ∀ (s : State) (p : Instr × Byte),
    p ∈ [(Instr.skipRom, 0xCC#8), (Instr.startConversion, 0x44#8), (Instr.readScratchpad, 0xBE#8)] →
    (∀ j, s.ow.sending s.cfg.convWaitUs ≠ some (p.2, j)) → exec p.1 s = .refused .busByteNotScheduled

/-- R158, R159: with no command in progress ticks leave the OW unit alone, so that a line held by OW_PULL_LOW stays low, no
sample is taken and no result register changes. -/
def Obligations.IdleUnitHoldsTheLine : Prop :=
  ∀ (s : State) (n : Nat), s.ow.busy = false → (s.ticks n).ow = s.ow ∧ (s.ticks n).drivesLow = s.drivesLow

/-- R91, R155: no result register of the OW unit changes before completion, whatever the step. -/
def Obligations.NoResultBeforeCompletion : Prop :=
  ∀ s t, s.ow.busy = true → s.nextAction ≠ Action.reset → step s = .next t → t.ow.busy = true →
    t.ow.resultRegs = s.ow.resultRegs

/-- R176: a sample is taken only while the line is released, and only at the offsets of R163, R169, R175 and R205. -/
def Obligations.SamplesOnlyOnReleasedLine : Prop :=
  ∀ w op arg k samples, k < duration w op samples → isSample w op k samples = true →
    dir w op arg k samples = .input ∧
    (op = .reset ∧ k = 550 ∨ op = .readBit ∧ k = 15 ∨ op = .readByte ∧ (∃ i, i < 8 ∧ k = 70 * i + 15) ∨
      op = .readTemp ∧ (k = 550 ∨ k = 2080 + w + 550 ∨ ∃ i, i < 16 ∧ k = 2080 + w + 2080 + 70 * i + 15))

/-- R320, columns "line low" of the commands with a fixed schedule. -/
def Obligations.LowTicksPerCommand : Prop :=
  (∀ w arg, (List.range 960).countP (fun k => dir w .reset arg k [] == .output) = 480) ∧
  (∀ w arg, (List.range 70).countP (fun k => dir w .writeBit arg k [] == .output) =
    if arg.getLsbD 0 then 6 else 60) ∧
  (∀ w arg, (List.range 70).countP (fun k => dir w .readBit arg k [] == .output) = 6) ∧
  (∀ w arg, (List.range 560).countP (fun k => dir w .readByte arg k [] == .output) = 48) ∧
  ∀ w (arg : Byte), (List.range 560).countP (fun k => dir w .writeByte arg k [] == .output) =
    6 * (List.range 8).countP (fun i => arg.getLsbD i) + 60 * (8 - (List.range 8).countP (fun i => arg.getLsbD i))

/-! ## Whole commands: from the host's write to completion -/

/-- R162, R163: OW_RESET from an idle unit. For 960 ticks it is BUSY, the line low for the first 480; then it is complete,
PRESENT the inverse of the level at offset 550 (R161), and nothing else of the unit is changed by its run. -/
def Obligations.ResetSlotDetectsPresence : Prop :=
  ∀ (s : State) (arg : Byte), s.ow.busy = false → ∃ t, exec (.owReset arg) s = .next t ∧
    (∀ n, n < 960 → (t.ticks n).ow.busy = true ∧ ((t.ticks n).drivesLow = true ↔ n < 480) ∧
      (t.ticks n).ow.resultRegs = t.ow.resultRegs) ∧
    (t.ticks 960).ow = { t.ow with
      k := 960, samples := [s.envAt 550], dir := .input, op := none, busy := false, done := true,
      present := !s.envAt 550 }

/-- R165, R166: OW_WRITE_BIT from an idle unit, for both values of the bit and with any levels on the line. -/
def Obligations.WriteBitDrivesItsSlot : Prop :=
  ∀ (s : State) (arg : Byte), s.ow.busy = false → ∃ t, exec (.owWriteBit arg) s = .next t ∧
    (∀ n, n < 70 → (t.ticks n).ow.busy = true ∧
      ((t.ticks n).drivesLow = true ↔ n < if arg.getLsbD 0 then 6 else 60)) ∧
    (t.ticks 70).ow = { t.ow with k := 70, dir := .input, op := none, busy := false, done := true }

/-- R168, R169: OW_READ_BIT from an idle unit: RX is the level at offset 15, not inverted, zero-extended. -/
def Obligations.ReadBitReadsOffset15 : Prop :=
  ∀ (s : State) (arg : Byte), s.ow.busy = false → ∃ t, exec (.owReadBit arg) s = .next t ∧
    (∀ n, n < 70 → (t.ticks n).ow.busy = true ∧ ((t.ticks n).drivesLow = true ↔ n < 6) ∧
      (t.ticks n).ow.resultRegs = t.ow.resultRegs) ∧
    (t.ticks 70).ow = { t.ow with
      k := 70, samples := [s.envAt 15], dir := .input, op := none, busy := false, done := true,
      rx := if s.envAt 15 then 1 else 0 }

/-- R170, R171, R172: OW_WRITE_BYTE from an idle unit: eight write slots without gaps, slot `i` that of bit `i`. -/
def Obligations.WriteByteSendsLsbFirst : Prop :=
  ∀ (s : State) (v : Byte), s.ow.busy = false → ∃ t, exec (.owWriteByte v) s = .next t ∧
    (∀ n, n < 560 → (t.ticks n).ow.busy = true ∧
      ((t.ticks n).drivesLow = true ↔ n % 70 < if v.getLsbD (n / 70) then 6 else 60)) ∧
    (t.ticks 560).ow = { t.ow with k := 560, dir := .input, op := none, busy := false, done := true }

/-- R174, R175: OW_READ_BYTE from an idle unit: bit `i` of RX is the level at offset `70 i + 15`. -/
def Obligations.ReadByteReceivesLsbFirst : Prop :=
  ∀ (s : State) (arg : Byte), s.ow.busy = false → ∃ t, exec (.owReadByte arg) s = .next t ∧
    (∀ n, n < 560 → (t.ticks n).ow.busy = true ∧ ((t.ticks n).drivesLow = true ↔ n % 70 < 6) ∧
      (t.ticks n).ow.resultRegs = t.ow.resultRegs) ∧
    (t.ticks 560).ow = { t.ow with
      k := 560, samples := (List.range 8).map (fun i => s.envAt (70 * i + 15)), dir := .input, op := none,
      busy := false, done := true, rx := (t.ticks 560).ow.rx } ∧
    ∀ i, i < 8 → (t.ticks 560).ow.rx.getLsbD i = s.envAt (70 * i + 15)

/-- R173: the loopback round trip. A fake bus records slot `i` of an OW_WRITE_BYTE as 1 where the line is released 15 ticks
into the slot, and gives that back at the sample of slot `i` of the next OW_READ_BYTE, which then writes RX = v. -/
def Obligations.LoopbackReturnsTheByte : Prop :=
  ∀ (s t r : State) (v arg : Byte), s.ow.busy = false → exec (.owWriteByte v) s = .next t →
    exec (.owReadByte arg) (t.ticks 560) = .next r →
    (∀ i, i < 8 → r.envAt (70 * i + 15) = !(t.ticks (70 * i + 15)).drivesLow) →
    (r.ticks 560).ow.busy = false ∧ (r.ticks 560).ow.done = true ∧ (r.ticks 560).ow.rx = v

/-- R201, R202: OW_READ_TEMP whose first reset slot sees no presence pulse ends with that slot: NOPRES, the sentinel, and
OW_TEMP_RAW and RX unwritten. -/
def Obligations.ReadTempFailsAtFirstReset : Prop :=
  ∀ (s : State) (arg : Byte), s.ow.busy = false → s.envAt 550 = true → ∃ t, exec (.owReadTemp arg) s = .next t ∧
    (∀ n, n < 960 → (t.ticks n).ow.busy = true ∧ ((t.ticks n).drivesLow = true ↔ n < 480)) ∧
    (t.ticks 960).ow = { t.ow with
      k := 960, samples := [true], dir := .input, op := none, busy := false, done := true,
      present := false, noPres := true, tempC := 0xC47A0000#32 }

/-- R201, R202, R205: OW_READ_TEMP with presence at the first reset and none at the second ends with the second slot, at
offset B + 960. Up to there the line is low at the offsets of R205's table and at no other. -/
def Obligations.ReadTempFailsAtSecondReset : Prop :=
  ∀ (s : State) (arg : Byte), s.ow.busy = false → s.envAt 550 = false →
    s.envAt (2080 + s.cfg.convWaitUs + 550) = true → ∃ t, exec (.owReadTemp arg) s = .next t ∧
    let b := 2080 + s.cfg.convWaitUs
    (∀ n, n < b + 960 → (t.ticks n).ow.busy = true ∧
      ((t.ticks n).drivesLow = true ↔
        n < 480 ∨ byteLow 0xCC#8 960 n ∨ byteLow 0x44#8 1520 n ∨ b ≤ n ∧ n < b + 480)) ∧
    (t.ticks (b + 960)).ow = { t.ow with
      k := b + 960, samples := [false, true], dir := .input, op := none, busy := false, done := true, present := false,
      noPres := true, tempC := 0xC47A0000#32 }

/-- R201, R204, R205, R208, R209: OW_READ_TEMP with presence at both resets ends at offset B + 3200 with PRESENT set, the
two bytes on the line as the scratchpad word, LSB first, sign-extended in OW_TEMP_RAW, and in OW_TEMP_C a finite binary32
pattern of exactly a sixteenth of it, which is +0.0 for 0. RX is not written. Up to there the line is low at the offsets of
R205's table and at no other. -/
def Obligations.ReadTempSucceeds : Prop :=
  ∀ (s : State) (arg : Byte), s.ow.busy = false → s.envAt 550 = false →
    s.envAt (2080 + s.cfg.convWaitUs + 550) = false → ∃ t, exec (.owReadTemp arg) s = .next t ∧
    let b := 2080 + s.cfg.convWaitUs
    let raw : BitVec 16 := s.byteOnLine (b + 2640) ++ s.byteOnLine (b + 2080)
    let e := (t.ticks (b + 3200)).ow
    (∀ n, n < b + 3200 → (t.ticks n).ow.busy = true ∧
      ((t.ticks n).drivesLow = true ↔
        n < 480 ∨ byteLow 0xCC#8 960 n ∨ byteLow 0x44#8 1520 n ∨ (b ≤ n ∧ n < b + 480) ∨ byteLow 0xCC#8 (b + 960) n ∨
        byteLow 0xBE#8 (b + 1520) n ∨ (b + 2080 ≤ n ∧ (n - (b + 2080)) % 70 < 6))) ∧
    e = { t.ow with
      k := b + 3200, samples := e.samples, dir := .input, op := none, busy := false, done := true, present := true,
      tempRaw := raw.signExtend 32, tempC := e.tempC } ∧
    e.samples.length = 18 ∧ f32Finite e.tempC = true ∧ f32Value e.tempC = (raw.toInt : ℚ) / 16 ∧
    (raw = 0 → e.tempC = 0#32)

/-- R203: the conversion wait. From its first tick the line stays released for exactly CONV_WAIT_US ticks, with no sample
and BUSY set, and then the second reset pulse begins. -/
def Obligations.ConversionWaitIsExact : Prop :=
  ∀ s : State, s.ow.busy = true → s.ow.op = some .readTemp → s.ow.k = 2080 → s.ow.samples = [false] →
    s.ow.dir = .input → 0 < s.cfg.convWaitUs →
    ∀ n, n ≤ s.cfg.convWaitUs → (s.ticks n).ow = { s.ow with
      k := 2080 + n, dir := if n < s.cfg.convWaitUs then .input else .output }

/-- R210: the results of OW_READ_TEMP depend only on the 18 sampled levels: two units that start it, whatever else their
states hold, write the same OW_TEMP_C, PRESENT and NOPRES if the levels agree at the 18 offsets, and the same OW_TEMP_RAW
if presence was seen. -/
def Obligations.ReadTempDependsOnSamplesOnly : Prop :=
  ∀ (s s' t t' : State) (arg arg' : Byte), s.cfg.convWaitUs = s'.cfg.convWaitUs → s.ow.busy = false →
    s'.ow.busy = false → exec (.owReadTemp arg) s = .next t → exec (.owReadTemp arg') s' = .next t' →
    (∀ k, (k = 550 ∨ k = 2080 + s.cfg.convWaitUs + 550 ∨
      ∃ i, i < 16 ∧ k = 2080 + s.cfg.convWaitUs + 2080 + 70 * i + 15) → s.envAt k = s'.envAt k) →
    let n := 2080 + s.cfg.convWaitUs + 3200
    (t.ticks n).ow.tempC = (t'.ticks n).ow.tempC ∧ (t.ticks n).ow.present = (t'.ticks n).ow.present ∧
    (t.ticks n).ow.noPres = (t'.ticks n).ow.noPres ∧
    ((t.ticks n).ow.present = true → (t.ticks n).ow.tempRaw = (t'.ticks n).ow.tempRaw)

/-! ## The scratchpad word in binary32 -/

/-- R122, R204: OW_TEMP_C is exact: for every scratchpad word the pattern is a finite binary32 number, a sixteenth of the
signed word, and +0.0 for 0. -/
def Obligations.TempBitsAreExact : Prop :=
  (∀ raw : BitVec 16, f32Finite (tempBits raw) = true ∧ f32Value (tempBits raw) = (raw.toInt : ℚ) / 16) ∧
  tempBits 0 = 0#32

/-- R20, R207: the sentinel is −1000.0, and one scratchpad word decodes to it, 0xC180. -/
def Obligations.SentinelHasOneAmbiguousWord : Prop :=
  f32Value sentinel = -1000 ∧ ∀ raw : BitVec 16, tempBits raw = sentinel ↔ raw = 0xC180#16

/-! ## The thermistor converter -/

/-- R230, R231: with the unit idle TH_CONVERT is accepted: the ADC's code is latched, and the conversion waits, or with
TH_LATENCY = 0 is complete in the write (R237). Nothing of the OW unit changes (R239). -/
def Obligations.ThConvertAccepted : Prop :=
  ∀ s : State, s.th.busy = false → ∃ t, exec .thConvert s = .next t ∧
    t.cfg = s.cfg ∧ t.now = s.now ∧ t.ow = s.ow ∧ t.agenda = s.agenda ∧ t.reads = s.reads ∧
    t.draws.env = s.draws.env ∧ t.draws.envUsed = s.draws.envUsed ∧
    (0 < s.cfg.thLatency → t.th = { s.th with
      code := s.adcNext, busy := true, done := false, invalid := false, reason := .none, cmdErr := false, k := 0 }) ∧
    (s.cfg.thLatency = 0 →
      t.th.code = s.adcNext ∧ t.th.busy = false ∧ t.th.done = true ∧ t.th.cmdErr = false ∧ t.th.k = s.th.k ∧
      t.th.reason = reasonOf s.cfg.therm s.adcNext ∧ (t.th.invalid = true ↔ t.th.reason ≠ .none) ∧
      t.th.volt = (thermNumerics s.cfg.therm s.adcNext).volt ∧
      (t.th.reason = .none → t.th.res = (thermNumerics s.cfg.therm s.adcNext).res ∧
        t.th.tempC = (thermNumerics s.cfg.therm s.adcNext).tempC) ∧
      (t.th.reason ≠ .none → t.th.res = s.th.res ∧ t.th.tempC = s.th.tempC))

/-- R264: a start while BUSY sets CMD_ERR and changes nothing else, and in a run it can occur only with TH_LATENCY > 0
(the premise `ResultsAgree` is the invariant of `StepKeepsThResults`). -/
def Obligations.ThStartWhileBusyRejected : Prop :=
  (∀ s rest w, s.agenda = Action.write (s.cfg.owtBase + 0x20) .word w :: rest → w.getLsbD 0 = true →
    s.th.busy = true → step s = .next { s with agenda := rest, th := { s.th with cmdErr := true } }) ∧
  ∀ s : State, s.th.ResultsAgree s.cfg → s.th.busy = true → 0 < s.cfg.thLatency

/-- R230, R237: an accepted conversion with TH_LATENCY > 0 completes at exactly TH_LATENCY ticks: BUSY is cleared, DONE set,
REASON and INVALID are those of the latched code, TH_VOLT is written, and for a valid sample TH_RES and TH_TEMP_C are
written, with finite values. Before that nothing but `th_k` changes. That TH_VOLT is finite too is the model's deduction
(log 7). -/
def Obligations.ThConversionTakesLatency : Prop :=
  ∀ s : State, s.th.busy = true → s.th.k = 0 → 0 < s.cfg.thLatency →
    (∀ n, n < s.cfg.thLatency → (s.ticks n).th = { s.th with k := n }) ∧
    let c := s.th.code
    let p := s.cfg.therm
    let e := (s.ticks s.cfg.thLatency).th
    e.busy = false ∧ e.done = true ∧ e.code = c ∧ e.cmdErr = s.th.cmdErr ∧ e.reason = reasonOf p c ∧
    (e.invalid = true ↔ e.reason ≠ .none) ∧ e.volt = (thermNumerics p c).volt ∧ f32Finite e.volt = true ∧
    (e.reason = .none → e.res = (thermNumerics p c).res ∧ e.tempC = (thermNumerics p c).tempC ∧
      f32Finite e.res = true ∧ f32Finite e.tempC = true) ∧
    (e.reason ≠ .none → e.res = s.th.res ∧ e.tempC = s.th.tempC)

/-- R236, N2 and N3: code 0 gives the voltage +0.0, and a valid code's resistance and temperature are finite, whatever the
free function is. That the voltage is finite is the model's deduction from N4, and that the resistance and temperature of an
invalid code are finite too is the model's choice (log 7). -/
def Obligations.ThermNumericsMeetsN2N3 : Prop :=
  ∀ p c, (thermNumerics p 0).volt = 0#32 ∧ f32Finite (thermNumerics p c).volt = true ∧
    f32Finite (thermNumerics p c).res = true ∧ f32Finite (thermNumerics p c).tempC = true

/-- R235, orders 1 and 2: which codes are invalid for the formula's sake, by topology, for positive parameters. -/
def Obligations.EndCodesInvalid : Prop :=
  ∀ p c, p.wellFormed = true →
    (reasonOf p c = .zeroVoltage ↔ c = match p.topology with | .fixedLow => 0#12 | .fixedHigh => 4095#12) ∧
    (reasonOf p c = .nonpositiveResistance ↔ c = match p.topology with | .fixedLow => 4095#12 | .fixedHigh => 0#12) ∧
    (reasonOf p c ≠ .zeroVoltage → (reasonOf p c = .nonpositiveResistance ↔ realRes p c ≤ 0))

/-- R234, R235, order 3: for positive parameters and a positive resistance, a code is out of range exactly when the real `D`
is not positive, and is then reported so; otherwise it is valid. -/
def Obligations.RangeDecisionIsSound : Prop :=
  ∀ p c, p.wellFormed = true → 0 < realRes p c →
    (outOfRange p c = true ↔ realD p (realRes p c) ≤ 0) ∧
    (reasonOf p c = .temperatureOutOfRange ↔ realD p (realRes p c) ≤ 0) ∧
    (reasonOf p c = .none ↔ 0 < realD p (realRes p c))

/-- R242: with the parameter values of R13's table, taken here as a premise (R318), exactly the codes 0 and 4095 are
invalid, with REASON 1 and 2, and every other code has `D > 0`. -/
def Obligations.DefaultsRejectTwoCodes : Prop :=
  ∀ p : ThermParams, p.rRef = 8300 → p.t0 = 3016 / 10 → p.beta = 3950 → p.rf = 8600 → p.topology = .fixedLow →
    ∀ c, (reasonOf p c = .zeroVoltage ↔ c = 0#12) ∧ (reasonOf p c = .nonpositiveResistance ↔ c = 4095#12) ∧
      reasonOf p c ≠ .temperatureOutOfRange ∧ (reasonOf p c = .none → 0 < realD p (realRes p c))

/-- R241: with FIXED_LOW and positive parameters, over the codes with a positive resistance and `D > 0`, the resistance
falls strictly and the temperature rises strictly with the code. -/
def Obligations.TemperatureRisesWithCode : Prop :=
  ∀ p c c', p.wellFormed = true → p.topology = .fixedLow → 0 < c.toNat → c.toNat < c'.toNat → c'.toNat < 4095 →
    0 < realD p (realRes p c') →
    realRes p c' < realRes p c ∧ 0 < realD p (realRes p c) ∧
      realTempC p (realRes p c) < realTempC p (realRes p c')

/-- R240: at `R = R_REF` the temperature is exactly the calibration temperature; with T0 = 301.6 that is 28.45 °C. -/
def Obligations.CalibrationPointExact : Prop :=
  ∀ p, p.wellFormed = true → realTempC p (p.rRef : ℝ) = (p.t0 : ℝ) - 273.15 ∧
    (p.t0 = 3016 / 10 → realTempC p (p.rRef : ℝ) = 28.45)

/-- R243: the worked example by the formulas of R232 and R233, code 2048: exactly 2048 · 3.3 / 4095 V and
8595.80078125 Ω. -/
def Obligations.WorkedExampleByFormulas : Prop :=
  ∀ p : ThermParams, p.vs = 33 / 10 → p.rf = 8600 → p.topology = .fixedLow →
    voltage p 2048#12 = 2048 * (33 / 10) / 4095 ∧ resistance p 2048#12 = 859580078125 / 100000000

/-- R236 N4 with the invariant of `StepKeepsThResults`: whenever TH_STATUS.DONE reads 1, TH_VOLT is within the open bound of
the voltage of the latched code, and for a valid sample TH_RES and TH_TEMP_C are within theirs. -/
def Obligations.DoneResultsAreAccurate : Prop :=
  ∀ (s : State) (epsV epsR epsT : ℝ), Accurate s.cfg.therm epsV epsR epsT → s.th.ResultsAgree s.cfg →
    s.th.done = true →
    |((f32Value s.th.volt : ℚ) : ℝ) - realVolt s.cfg.therm s.th.code| ≤ epsV * |realVolt s.cfg.therm s.th.code| ∧
    (s.th.invalid = false →
      |((f32Value s.th.res : ℚ) : ℝ) - realRes s.cfg.therm s.th.code| ≤ epsR * |realRes s.cfg.therm s.th.code| ∧
      |((f32Value s.th.tempC : ℚ) : ℝ) - realTempC s.cfg.therm (realRes s.cfg.therm s.th.code)| ≤ epsT)

/-! ## The whole machine -/

/-- R239, R2: the units do not interact. An OW command leaves the TH unit alone and TH_CONVERT the OW unit; and over any
number of ticks what one unit does depends on nothing of the other. -/
def Obligations.UnitsAreIndependent : Prop :=
  (∀ (i : Instr) (s t : State), i.target = .owCtrl → exec i s = .next t → t.th = s.th) ∧
  (∀ s t : State, exec .thConvert s = .next t → t.ow = s.ow) ∧
  (∀ (s : State) (h : Th) (n : Nat), ({ s with th := h }.ticks n).ow = (s.ticks n).ow) ∧
  ∀ (s : State) (u : Ow) (n : Nat), ({ s with ow := u }.ticks n).th = (s.ticks n).th

/-- R10: only the timebase's step moves time, by one; reset sets it to 0. That a host poll whose condition does not hold lets
one tick of the timebase pass within its own action is the model's choice (log 15). -/
def Obligations.OnlyTicksAdvanceTime : Prop :=
  ∀ s t : State, step s = .next t →
    match s.nextAction with
    | .tick => t.now = s.now + 1
    | .reset => t.now = 0
    | .poll _ _ _ _ => t = s.popped ∨ t.now = s.now + 1
    | .read _ _ => t.now = s.now
    | .write _ _ _ => t.now = s.now
    | .failUnless _ _ => t.now = s.now

/-- R13, R54: no step changes the build. -/
def Obligations.ConfigurationNeverChanges : Prop :=
  ∀ s t : State, step s = .next t → t.cfg = s.cfg

/-- The invariant of every run holds right after reset, in every build. -/
def Obligations.InvariantAtReset : Prop :=
  ∀ c : Config, (State.resetOf c).Inv

/-- R43, R44, R152, R153, R98: every step keeps a command in progress on its schedule: before its end, the line driven as
the schedule says at its offset, with as many samples as the offset asks for, and OW_CTRL still showing it. -/
def Obligations.StepKeepsSchedule : Prop :=
  ∀ s t : State, s.ow.OnSchedule s.cfg.convWaitUs → step s = .next t → t.ow.OnSchedule t.cfg.convWaitUs

/-- R36, R155, R202, R38, R35: every step keeps the OW flags and registers in agreement. -/
def Obligations.StepKeepsOwFlags : Prop :=
  ∀ s t : State, s.ow.FlagsAgree → step s = .next t → t.ow.FlagsAgree

/-- R42: the release invariant. Every timed command ends with the line released, and with no command in progress only
OW_PULL_LOW leaves it driven: from every state where that holds, every step keeps it. -/
def Obligations.StepKeepsReleaseInvariant : Prop :=
  ∀ s t : State, s.ow.ReleasedUnlessHeld → step s = .next t →
    t.ow.ReleasedUnlessHeld ∧ (s.ow.busy = true → t.ow.busy = false → t.ow.dir = .input)

/-- R47–R51, R237: every step keeps the TH registers in agreement: DONE means they are the results of the latched code,
REASON is 0 exactly when INVALID is, and TH_RES and TH_TEMP_C never hold a non-finite number. That TH_VOLT never does
either is the model's deduction (log 7). -/
def Obligations.StepKeepsThResults : Prop :=
  ∀ s t : State, s.th.ResultsAgree s.cfg → step s = .next t → t.th.ResultsAgree t.cfg
end

