-- ==== Sys2Proof/Laws/State.lean ====
section
/-! SUPPORT. What each update of the state does to each field: one lemma per field, true by rfl. Later proofs use these
and unfold no record update. -/

namespace Sys2Proof.Machine

/-! ## The OW unit -/

@[simp] theorem Ow.reject_dir (u : Ow) : (u.reject).dir = u.dir := rfl
@[simp] theorem Ow.reject_op (u : Ow) : (u.reject).op = u.op := rfl
@[simp] theorem Ow.reject_arg (u : Ow) : (u.reject).arg = u.arg := rfl
@[simp] theorem Ow.reject_k (u : Ow) : (u.reject).k = u.k := rfl
@[simp] theorem Ow.reject_samples (u : Ow) : (u.reject).samples = u.samples := rfl
@[simp] theorem Ow.reject_ctrlOp (u : Ow) : (u.reject).ctrlOp = u.ctrlOp := rfl
@[simp] theorem Ow.reject_ctrlArg (u : Ow) : (u.reject).ctrlArg = u.ctrlArg := rfl
@[simp] theorem Ow.reject_busy (u : Ow) : (u.reject).busy = u.busy := rfl
@[simp] theorem Ow.reject_done (u : Ow) : (u.reject).done = u.done := rfl
@[simp] theorem Ow.reject_present (u : Ow) : (u.reject).present = u.present := rfl
@[simp] theorem Ow.reject_noPres (u : Ow) : (u.reject).noPres = u.noPres := rfl
@[simp] theorem Ow.reject_cmdErr (u : Ow) : (u.reject).cmdErr = true := rfl
@[simp] theorem Ow.reject_rx (u : Ow) : (u.reject).rx = u.rx := rfl
@[simp] theorem Ow.reject_tempRaw (u : Ow) : (u.reject).tempRaw = u.tempRaw := rfl
@[simp] theorem Ow.reject_tempC (u : Ow) : (u.reject).tempC = u.tempC := rfl

@[simp] theorem Ow.acceptFlags_dir (op : BitVec 4) (arg : Byte) (u : Ow) : (u.acceptFlags op arg).dir = u.dir := rfl
@[simp] theorem Ow.acceptFlags_op (op : BitVec 4) (arg : Byte) (u : Ow) : (u.acceptFlags op arg).op = u.op := rfl
@[simp] theorem Ow.acceptFlags_arg (op : BitVec 4) (arg : Byte) (u : Ow) : (u.acceptFlags op arg).arg = arg := rfl
@[simp] theorem Ow.acceptFlags_k (op : BitVec 4) (arg : Byte) (u : Ow) : (u.acceptFlags op arg).k = 0 := rfl
@[simp] theorem Ow.acceptFlags_samples (op : BitVec 4) (arg : Byte) (u : Ow) : (u.acceptFlags op arg).samples = [] := rfl
@[simp] theorem Ow.acceptFlags_ctrlOp (op : BitVec 4) (arg : Byte) (u : Ow) : (u.acceptFlags op arg).ctrlOp = op := rfl
@[simp] theorem Ow.acceptFlags_ctrlArg (op : BitVec 4) (arg : Byte) (u : Ow) : (u.acceptFlags op arg).ctrlArg = arg := rfl
@[simp] theorem Ow.acceptFlags_busy (op : BitVec 4) (arg : Byte) (u : Ow) : (u.acceptFlags op arg).busy = u.busy := rfl
@[simp] theorem Ow.acceptFlags_done (op : BitVec 4) (arg : Byte) (u : Ow) : (u.acceptFlags op arg).done = false := rfl
@[simp] theorem Ow.acceptFlags_present (op : BitVec 4) (arg : Byte) (u : Ow) : (u.acceptFlags op arg).present = u.present := rfl
@[simp] theorem Ow.acceptFlags_noPres (op : BitVec 4) (arg : Byte) (u : Ow) : (u.acceptFlags op arg).noPres = false := rfl
@[simp] theorem Ow.acceptFlags_cmdErr (op : BitVec 4) (arg : Byte) (u : Ow) : (u.acceptFlags op arg).cmdErr = false := rfl
@[simp] theorem Ow.acceptFlags_rx (op : BitVec 4) (arg : Byte) (u : Ow) : (u.acceptFlags op arg).rx = u.rx := rfl
@[simp] theorem Ow.acceptFlags_tempRaw (op : BitVec 4) (arg : Byte) (u : Ow) : (u.acceptFlags op arg).tempRaw = u.tempRaw := rfl
@[simp] theorem Ow.acceptFlags_tempC (op : BitVec 4) (arg : Byte) (u : Ow) : (u.acceptFlags op arg).tempC = u.tempC := rfl

@[simp] theorem Ow.completeFlags_dir (u : Ow) : (u.completeFlags).dir = .input := rfl
@[simp] theorem Ow.completeFlags_op (u : Ow) : (u.completeFlags).op = none := rfl
@[simp] theorem Ow.completeFlags_arg (u : Ow) : (u.completeFlags).arg = u.arg := rfl
@[simp] theorem Ow.completeFlags_k (u : Ow) : (u.completeFlags).k = u.k := rfl
@[simp] theorem Ow.completeFlags_samples (u : Ow) : (u.completeFlags).samples = u.samples := rfl
@[simp] theorem Ow.completeFlags_ctrlOp (u : Ow) : (u.completeFlags).ctrlOp = u.ctrlOp := rfl
@[simp] theorem Ow.completeFlags_ctrlArg (u : Ow) : (u.completeFlags).ctrlArg = u.ctrlArg := rfl
@[simp] theorem Ow.completeFlags_busy (u : Ow) : (u.completeFlags).busy = false := rfl
@[simp] theorem Ow.completeFlags_done (u : Ow) : (u.completeFlags).done = true := rfl
@[simp] theorem Ow.completeFlags_present (u : Ow) : (u.completeFlags).present = u.present := rfl
@[simp] theorem Ow.completeFlags_noPres (u : Ow) : (u.completeFlags).noPres = u.noPres := rfl
@[simp] theorem Ow.completeFlags_cmdErr (u : Ow) : (u.completeFlags).cmdErr = u.cmdErr := rfl
@[simp] theorem Ow.completeFlags_rx (u : Ow) : (u.completeFlags).rx = u.rx := rfl
@[simp] theorem Ow.completeFlags_tempRaw (u : Ow) : (u.completeFlags).tempRaw = u.tempRaw := rfl
@[simp] theorem Ow.completeFlags_tempC (u : Ow) : (u.completeFlags).tempC = u.tempC := rfl

@[simp] theorem Ow.acceptLine_dir (op : BitVec 4) (d : Direction) (arg : Byte) (u : Ow) : (u.acceptLine op d arg).dir = d := rfl
@[simp] theorem Ow.acceptLine_op (op : BitVec 4) (d : Direction) (arg : Byte) (u : Ow) : (u.acceptLine op d arg).op = u.op := rfl
@[simp] theorem Ow.acceptLine_arg (op : BitVec 4) (d : Direction) (arg : Byte) (u : Ow) : (u.acceptLine op d arg).arg = arg := rfl
@[simp] theorem Ow.acceptLine_k (op : BitVec 4) (d : Direction) (arg : Byte) (u : Ow) : (u.acceptLine op d arg).k = 0 := rfl
@[simp] theorem Ow.acceptLine_samples (op : BitVec 4) (d : Direction) (arg : Byte) (u : Ow) : (u.acceptLine op d arg).samples = [] := rfl
@[simp] theorem Ow.acceptLine_ctrlOp (op : BitVec 4) (d : Direction) (arg : Byte) (u : Ow) : (u.acceptLine op d arg).ctrlOp = op := rfl
@[simp] theorem Ow.acceptLine_ctrlArg (op : BitVec 4) (d : Direction) (arg : Byte) (u : Ow) : (u.acceptLine op d arg).ctrlArg = arg := rfl
@[simp] theorem Ow.acceptLine_busy (op : BitVec 4) (d : Direction) (arg : Byte) (u : Ow) : (u.acceptLine op d arg).busy = u.busy := rfl
@[simp] theorem Ow.acceptLine_done (op : BitVec 4) (d : Direction) (arg : Byte) (u : Ow) : (u.acceptLine op d arg).done = true := rfl
@[simp] theorem Ow.acceptLine_present (op : BitVec 4) (d : Direction) (arg : Byte) (u : Ow) : (u.acceptLine op d arg).present = u.present := rfl
@[simp] theorem Ow.acceptLine_noPres (op : BitVec 4) (d : Direction) (arg : Byte) (u : Ow) : (u.acceptLine op d arg).noPres = false := rfl
@[simp] theorem Ow.acceptLine_cmdErr (op : BitVec 4) (d : Direction) (arg : Byte) (u : Ow) : (u.acceptLine op d arg).cmdErr = false := rfl
@[simp] theorem Ow.acceptLine_rx (op : BitVec 4) (d : Direction) (arg : Byte) (u : Ow) : (u.acceptLine op d arg).rx = u.rx := rfl
@[simp] theorem Ow.acceptLine_tempRaw (op : BitVec 4) (d : Direction) (arg : Byte) (u : Ow) : (u.acceptLine op d arg).tempRaw = u.tempRaw := rfl
@[simp] theorem Ow.acceptLine_tempC (op : BitVec 4) (d : Direction) (arg : Byte) (u : Ow) : (u.acceptLine op d arg).tempC = u.tempC := rfl

@[simp] theorem Ow.acceptTimed_dir (w : Nat) (op : OwOp) (arg : Byte) (u : Ow) : (u.acceptTimed w op arg).dir = Machine.dir w op arg 0 [] := rfl
@[simp] theorem Ow.acceptTimed_op (w : Nat) (op : OwOp) (arg : Byte) (u : Ow) : (u.acceptTimed w op arg).op = some op := rfl
@[simp] theorem Ow.acceptTimed_arg (w : Nat) (op : OwOp) (arg : Byte) (u : Ow) : (u.acceptTimed w op arg).arg = arg := rfl
@[simp] theorem Ow.acceptTimed_k (w : Nat) (op : OwOp) (arg : Byte) (u : Ow) : (u.acceptTimed w op arg).k = 0 := rfl
@[simp] theorem Ow.acceptTimed_samples (w : Nat) (op : OwOp) (arg : Byte) (u : Ow) : (u.acceptTimed w op arg).samples = [] := rfl
@[simp] theorem Ow.acceptTimed_ctrlOp (w : Nat) (op : OwOp) (arg : Byte) (u : Ow) : (u.acceptTimed w op arg).ctrlOp = op.code := rfl
@[simp] theorem Ow.acceptTimed_ctrlArg (w : Nat) (op : OwOp) (arg : Byte) (u : Ow) : (u.acceptTimed w op arg).ctrlArg = arg := rfl
@[simp] theorem Ow.acceptTimed_busy (w : Nat) (op : OwOp) (arg : Byte) (u : Ow) : (u.acceptTimed w op arg).busy = true := rfl
@[simp] theorem Ow.acceptTimed_done (w : Nat) (op : OwOp) (arg : Byte) (u : Ow) : (u.acceptTimed w op arg).done = false := rfl
@[simp] theorem Ow.acceptTimed_present (w : Nat) (op : OwOp) (arg : Byte) (u : Ow) : (u.acceptTimed w op arg).present = u.present := rfl
@[simp] theorem Ow.acceptTimed_noPres (w : Nat) (op : OwOp) (arg : Byte) (u : Ow) : (u.acceptTimed w op arg).noPres = false := rfl
@[simp] theorem Ow.acceptTimed_cmdErr (w : Nat) (op : OwOp) (arg : Byte) (u : Ow) : (u.acceptTimed w op arg).cmdErr = false := rfl
@[simp] theorem Ow.acceptTimed_rx (w : Nat) (op : OwOp) (arg : Byte) (u : Ow) : (u.acceptTimed w op arg).rx = u.rx := rfl
@[simp] theorem Ow.acceptTimed_tempRaw (w : Nat) (op : OwOp) (arg : Byte) (u : Ow) : (u.acceptTimed w op arg).tempRaw = u.tempRaw := rfl
@[simp] theorem Ow.acceptTimed_tempC (w : Nat) (op : OwOp) (arg : Byte) (u : Ow) : (u.acceptTimed w op arg).tempC = u.tempC := rfl

@[simp] theorem Ow.sendTick_dir (w : Nat) (v : Byte) (j : Nat) (u : Ow) : (u.sendTick w v j).dir = if j + 1 < tByte then writeByteDir v (j + 1) else Machine.dir w .readTemp u.arg (u.k + 1) u.samples := rfl
@[simp] theorem Ow.sendTick_op (w : Nat) (v : Byte) (j : Nat) (u : Ow) : (u.sendTick w v j).op = u.op := rfl
@[simp] theorem Ow.sendTick_arg (w : Nat) (v : Byte) (j : Nat) (u : Ow) : (u.sendTick w v j).arg = u.arg := rfl
@[simp] theorem Ow.sendTick_k (w : Nat) (v : Byte) (j : Nat) (u : Ow) : (u.sendTick w v j).k = u.k + 1 := rfl
@[simp] theorem Ow.sendTick_samples (w : Nat) (v : Byte) (j : Nat) (u : Ow) : (u.sendTick w v j).samples = u.samples := rfl
@[simp] theorem Ow.sendTick_ctrlOp (w : Nat) (v : Byte) (j : Nat) (u : Ow) : (u.sendTick w v j).ctrlOp = u.ctrlOp := rfl
@[simp] theorem Ow.sendTick_ctrlArg (w : Nat) (v : Byte) (j : Nat) (u : Ow) : (u.sendTick w v j).ctrlArg = u.ctrlArg := rfl
@[simp] theorem Ow.sendTick_busy (w : Nat) (v : Byte) (j : Nat) (u : Ow) : (u.sendTick w v j).busy = u.busy := rfl
@[simp] theorem Ow.sendTick_done (w : Nat) (v : Byte) (j : Nat) (u : Ow) : (u.sendTick w v j).done = u.done := rfl
@[simp] theorem Ow.sendTick_present (w : Nat) (v : Byte) (j : Nat) (u : Ow) : (u.sendTick w v j).present = u.present := rfl
@[simp] theorem Ow.sendTick_noPres (w : Nat) (v : Byte) (j : Nat) (u : Ow) : (u.sendTick w v j).noPres = u.noPres := rfl
@[simp] theorem Ow.sendTick_cmdErr (w : Nat) (v : Byte) (j : Nat) (u : Ow) : (u.sendTick w v j).cmdErr = u.cmdErr := rfl
@[simp] theorem Ow.sendTick_rx (w : Nat) (v : Byte) (j : Nat) (u : Ow) : (u.sendTick w v j).rx = u.rx := rfl
@[simp] theorem Ow.sendTick_tempRaw (w : Nat) (v : Byte) (j : Nat) (u : Ow) : (u.sendTick w v j).tempRaw = u.tempRaw := rfl
@[simp] theorem Ow.sendTick_tempC (w : Nat) (v : Byte) (j : Nat) (u : Ow) : (u.sendTick w v j).tempC = u.tempC := rfl

/-! ## The TH unit -/

@[simp] theorem Th.reject_k (h : Th) : (h.reject).k = h.k := rfl
@[simp] theorem Th.reject_busy (h : Th) : (h.reject).busy = h.busy := rfl
@[simp] theorem Th.reject_done (h : Th) : (h.reject).done = h.done := rfl
@[simp] theorem Th.reject_invalid (h : Th) : (h.reject).invalid = h.invalid := rfl
@[simp] theorem Th.reject_reason (h : Th) : (h.reject).reason = h.reason := rfl
@[simp] theorem Th.reject_cmdErr (h : Th) : (h.reject).cmdErr = true := rfl
@[simp] theorem Th.reject_code (h : Th) : (h.reject).code = h.code := rfl
@[simp] theorem Th.reject_volt (h : Th) : (h.reject).volt = h.volt := rfl
@[simp] theorem Th.reject_res (h : Th) : (h.reject).res = h.res := rfl
@[simp] theorem Th.reject_tempC (h : Th) : (h.reject).tempC = h.tempC := rfl

@[simp] theorem Th.acceptFlags_k (h : Th) : (h.acceptFlags).k = h.k := rfl
@[simp] theorem Th.acceptFlags_busy (h : Th) : (h.acceptFlags).busy = h.busy := rfl
@[simp] theorem Th.acceptFlags_done (h : Th) : (h.acceptFlags).done = false := rfl
@[simp] theorem Th.acceptFlags_invalid (h : Th) : (h.acceptFlags).invalid = false := rfl
@[simp] theorem Th.acceptFlags_reason (h : Th) : (h.acceptFlags).reason = .none := rfl
@[simp] theorem Th.acceptFlags_cmdErr (h : Th) : (h.acceptFlags).cmdErr = false := rfl
@[simp] theorem Th.acceptFlags_code (h : Th) : (h.acceptFlags).code = h.code := rfl
@[simp] theorem Th.acceptFlags_volt (h : Th) : (h.acceptFlags).volt = h.volt := rfl
@[simp] theorem Th.acceptFlags_res (h : Th) : (h.acceptFlags).res = h.res := rfl
@[simp] theorem Th.acceptFlags_tempC (h : Th) : (h.acceptFlags).tempC = h.tempC := rfl

@[simp] theorem Th.complete_k (p : ThermParams) (h : Th) : (h.complete p).k = h.k := rfl
@[simp] theorem Th.complete_busy (p : ThermParams) (h : Th) : (h.complete p).busy = false := rfl
@[simp] theorem Th.complete_done (p : ThermParams) (h : Th) : (h.complete p).done = true := rfl
@[simp] theorem Th.complete_invalid (p : ThermParams) (h : Th) : (h.complete p).invalid = (reasonOf p h.code != .none) := rfl
@[simp] theorem Th.complete_reason (p : ThermParams) (h : Th) : (h.complete p).reason = reasonOf p h.code := rfl
@[simp] theorem Th.complete_cmdErr (p : ThermParams) (h : Th) : (h.complete p).cmdErr = h.cmdErr := rfl
@[simp] theorem Th.complete_code (p : ThermParams) (h : Th) : (h.complete p).code = h.code := rfl
@[simp] theorem Th.complete_volt (p : ThermParams) (h : Th) : (h.complete p).volt = (thermNumerics p h.code).volt := rfl
@[simp] theorem Th.complete_res (p : ThermParams) (h : Th) : (h.complete p).res = if reasonOf p h.code = .none then (thermNumerics p h.code).res else h.res := rfl
@[simp] theorem Th.complete_tempC (p : ThermParams) (h : Th) : (h.complete p).tempC = if reasonOf p h.code = .none then (thermNumerics p h.code).tempC else h.tempC := rfl

/-! ## The state -/

@[simp] theorem State.tickWith_cfg (s : State) (u : Ow) : (s.tickWith u).cfg = s.cfg := rfl
@[simp] theorem State.tickWith_now (s : State) (u : Ow) : (s.tickWith u).now = s.now + 1 := rfl
@[simp] theorem State.tickWith_ow (s : State) (u : Ow) : (s.tickWith u).ow = u := rfl
@[simp] theorem State.tickWith_th (s : State) (u : Ow) : (s.tickWith u).th = s.th.tick s.cfg := rfl
@[simp] theorem State.tickWith_agenda (s : State) (u : Ow) : (s.tickWith u).agenda = s.agenda := rfl
@[simp] theorem State.tickWith_draws (s : State) (u : Ow) : (s.tickWith u).draws = s.draws.takeEnv := rfl
@[simp] theorem State.tickWith_reads (s : State) (u : Ow) : (s.tickWith u).reads = s.reads := rfl

@[simp] theorem State.tick_cfg (s : State) : (s.tick).cfg = s.cfg := rfl
@[simp] theorem State.tick_now (s : State) : (s.tick).now = s.now + 1 := rfl
@[simp] theorem State.tick_ow (s : State) : (s.tick).ow = s.ow.tick s.cfg.convWaitUs (s.envAt 0) := rfl
@[simp] theorem State.tick_th (s : State) : (s.tick).th = s.th.tick s.cfg := rfl
@[simp] theorem State.tick_agenda (s : State) : (s.tick).agenda = s.agenda := rfl
@[simp] theorem State.tick_draws (s : State) : (s.tick).draws = s.draws.takeEnv := rfl
@[simp] theorem State.tick_reads (s : State) : (s.tick).reads = s.reads := rfl

@[simp] theorem State.assertReset_cfg (s : State) : (s.assertReset).cfg = s.cfg := rfl
@[simp] theorem State.assertReset_now (s : State) : (s.assertReset).now = 0 := rfl
@[simp] theorem State.assertReset_ow (s : State) : (s.assertReset).ow = Ow.reset := rfl
@[simp] theorem State.assertReset_th (s : State) : (s.assertReset).th = Th.reset := rfl
@[simp] theorem State.assertReset_agenda (s : State) : (s.assertReset).agenda = s.agenda := rfl
@[simp] theorem State.assertReset_draws (s : State) : (s.assertReset).draws = s.draws := rfl
@[simp] theorem State.assertReset_reads (s : State) : (s.assertReset).reads = s.reads := rfl

/-- The words the host has read are seen by no action's effect on the units: they are carried along. -/
@[simp] theorem State.envAt_ow (s : State) (u : Ow) (i : Nat) : ({ s with ow := u } : State).envAt i = s.envAt i := rfl
@[simp] theorem State.envAt_th (s : State) (h : Th) (i : Nat) : ({ s with th := h } : State).envAt i = s.envAt i := rfl
@[simp] theorem State.envAt_agenda (s : State) (a : List Action) (i : Nat) :
    ({ s with agenda := a } : State).envAt i = s.envAt i := rfl

end Sys2Proof.Machine
end

