-- ==== Sys2Proof/Laws/Ops.lean ====
section
/-! SUPPORT. What each shared operation can do, said once; later proofs cite these and do not unfold the operations. -/

namespace Sys2Proof.Machine

/-! ## Starting a command -/

theorem Ow.issueLine_busy {op : BitVec 4} {d : Direction} {arg : Byte} {u : Ow} (h : u.busy = true) :
    u.issueLine op d arg = u.reject := by simp [Ow.issueLine, h]

theorem Ow.issueLine_idle {op : BitVec 4} {d : Direction} {arg : Byte} {u : Ow} (h : u.busy = false) :
    u.issueLine op d arg = u.acceptLine op d arg := by simp [Ow.issueLine, h]

theorem Ow.issueTimed_busy {w : Nat} {op : OwOp} {arg : Byte} {u : Ow} (h : u.busy = true) :
    u.issueTimed w op arg = u.reject := by simp [Ow.issueTimed, h]

theorem Ow.issueTimed_idle {w : Nat} {op : OwOp} {arg : Byte} {u : Ow} (h : u.busy = false) :
    u.issueTimed w op arg = u.acceptTimed w op arg := by simp [Ow.issueTimed, h]

/-- A line command always answers; it rejects or accepts, and touches the OW unit only. -/
theorem State.issueLine_next {op : BitVec 4} {d : Direction} {arg : Byte} {s s' : State}
    (h : s.issueLine op d arg = .next s') :
    (s.ow.busy = true ∧ s' = { s with ow := s.ow.reject }) ∨
      (s.ow.busy = false ∧ s' = { s with ow := s.ow.acceptLine op d arg }) := by
  obtain rfl : _ = s' := by simpa [State.issueLine] using h
  cases hb : s.ow.busy
  · exact .inr ⟨rfl, by rw [Ow.issueLine_idle hb]⟩
  · exact .inl ⟨rfl, by rw [Ow.issueLine_busy hb]⟩

/-- A timed command always answers; it rejects or accepts, and touches the OW unit only. -/
theorem State.issueTimed_next {op : OwOp} {arg : Byte} {s s' : State} (h : s.issueTimed op arg = .next s') :
    (s.ow.busy = true ∧ s' = { s with ow := s.ow.reject }) ∨
      (s.ow.busy = false ∧ s' = { s with ow := s.ow.acceptTimed s.cfg.convWaitUs op arg }) := by
  obtain rfl : _ = s' := by simpa [State.issueTimed] using h
  cases hb : s.ow.busy
  · exact .inr ⟨rfl, by rw [Ow.issueTimed_idle hb]⟩
  · exact .inl ⟨rfl, by rw [Ow.issueTimed_busy hb]⟩

/-- TH_CONVERT always answers; it rejects, or accepts the ADC's code. -/
theorem execThConvert_next {s s' : State} (h : execThConvert s = .next s') :
    (s.th.busy = true ∧ s' = { s with th := s.th.reject }) ∨
      (s.th.busy = false ∧ s' = { s with th := s.th.accept s.cfg s.adcNext, draws := s.draws.takeAdc }) := by
  unfold execThConvert at h
  split at h
  · exact .inl ⟨‹_›, by simpa using h.symm⟩
  · rename_i hb
    exact .inr ⟨by simpa using hb, by simpa using h.symm⟩

/-- A bus command answers a next state exactly where the sequencer is sending its byte. -/
theorem State.busTick_next {v : Byte} {s s' : State} (h : s.busTick v = .next s') :
    ∃ j, s.ow.sending s.cfg.convWaitUs = some (v, j) ∧ s' = s.tickWith (s.ow.sendTick s.cfg.convWaitUs v j) := by
  unfold State.busTick at h
  split at h
  · split at h
    · rename_i b j hs hb
      subst hb
      exact ⟨j, hs, by simpa using h.symm⟩
    · simp at h
  · simp at h

/-! ## Ticks -/

theorem Ow.tick_idle {w : Nat} {e : Bool} {u : Ow} (h : u.busy = false) : u.tick w e = u := by simp [Ow.tick, h]

theorem Ow.tick_running {w : Nat} {e : Bool} {u : Ow} {op : OwOp} (hb : u.busy = true) (ho : u.op = some op) :
    u.tick w e = u.run w op e := by simp [Ow.tick, hb, ho]

/-- A tick without a sample and before the end moves the offset and the direction, and nothing else (R153). -/
theorem Ow.run_quiet {w : Nat} {op : OwOp} {e : Bool} {u : Ow} (hs : isSample w op u.k u.samples = false)
    (hd : u.k + 1 ≠ duration w op u.samples) :
    u.run w op e = { u with k := u.k + 1, dir := Machine.dir w op u.arg (u.k + 1) u.samples } := by
  simp [Ow.run, takeSample, hs, hd]

/-- A tick that samples, before the end (R153). -/
theorem Ow.run_sample {w : Nat} {op : OwOp} {e : Bool} {u : Ow} (hs : isSample w op u.k u.samples = true)
    (hd : u.k + 1 ≠ duration w op (u.samples ++ [lineLevel u.dir e])) :
    u.run w op e = { u with
      samples := u.samples ++ [lineLevel u.dir e]
      k := u.k + 1
      dir := Machine.dir w op u.arg (u.k + 1) (u.samples ++ [lineLevel u.dir e]) } := by
  simp [Ow.run, takeSample, hs, hd]

/-- The last tick of a command that takes no sample then (R155). -/
theorem Ow.run_last {w : Nat} {op : OwOp} {e : Bool} {u : Ow} (hs : isSample w op u.k u.samples = false)
    (hd : u.k + 1 = duration w op u.samples) : u.run w op e = ({ u with k := u.k + 1 } : Ow).complete op := by
  simp [Ow.run, takeSample, hs, hd]

theorem Th.tick_idle {c : Config} {h : Th} (hb : h.busy = false) : h.tick c = h := by simp [Th.tick, hb]

theorem Th.tick_waiting {c : Config} {h : Th} (hb : h.busy = true) (hk : h.k + 1 ≠ c.thLatency) :
    h.tick c = { h with k := h.k + 1 } := by simp [Th.tick, hb, hk]

theorem Th.tick_last {c : Config} {h : Th} (hb : h.busy = true) (hk : h.k + 1 = c.thLatency) :
    h.tick c = ({ h with k := h.k + 1 } : Th).complete c.therm := by simp [Th.tick, hb, hk]

/-- What the tick of the TH unit can do. -/
theorem Th.tick_cases (c : Config) (h : Th) :
    (h.busy = false ∧ h.tick c = h) ∨
      (h.busy = true ∧ h.k + 1 ≠ c.thLatency ∧ h.tick c = { h with k := h.k + 1 }) ∨
      (h.busy = true ∧ h.k + 1 = c.thLatency ∧ h.tick c = ({ h with k := h.k + 1 } : Th).complete c.therm) := by
  by_cases hb : h.busy = true
  · by_cases hk : h.k + 1 = c.thLatency
    · exact .inr (.inr ⟨hb, hk, Th.tick_last hb hk⟩)
    · exact .inr (.inl ⟨hb, hk, Th.tick_waiting hb hk⟩)
  · have hf : h.busy = false := by simpa using hb
    exact .inl ⟨hf, Th.tick_idle hf⟩

/-- An accepted conversion completes at once, or waits (R230). -/
theorem Th.accept_cases (c : Config) (code : BitVec 12) (h : Th) :
    (c.thLatency = 0 ∧ h.accept c code = ({ h.acceptFlags with code := code } : Th).complete c.therm) ∨
      (0 < c.thLatency ∧ h.accept c code = { h.acceptFlags with code := code, busy := true, k := 0 }) := by
  by_cases hl : c.thLatency = 0
  · exact .inl ⟨hl, by simp [Th.accept, hl]⟩
  · exact .inr ⟨Nat.pos_of_ne_zero hl, by simp [Th.accept, hl]⟩

/-! ## The window -/

/-- An access is defined exactly where `accessWellFormed` says so (R81, R82). -/
theorem windowAccess_ok_iff (c : Config) (addr : Nat) (width : AccessWidth) (off : Nat) :
    windowAccess c addr width = .ok off ↔
      accessWellFormed c.owtBase addr width = true ∧ off = addr - c.owtBase := by
  unfold windowAccess windowOffset accessWellFormed
  by_cases h : c.owtBase ≤ addr ∧ addr < c.owtBase + 64
  · by_cases h2 : width = .word ∧ (addr - c.owtBase) % 4 = 0
    · simp [h, h2, eq_comm]
    · rw [if_pos h]
      simp only [if_neg h2]
      simp
      intro _ _ hw hm
      exact absurd ⟨hw, hm⟩ h2
  · rw [if_neg h]
    simp
    intro h1 h2
    exact absurd ⟨h1, h2⟩ h

/-- No slot of the window is the line (R90). -/
theorem commandTarget_ne_bus {off : Nat} {t : Target} (h : commandTarget off = some t) : t ≠ .bus := by
  rintro rfl
  unfold commandTarget at h
  split at h <;> simp at h

/-- What a host write can answer. -/
theorem State.hostWrite_next {s s' : State} {addr : Nat} {width : AccessWidth} {w : Word}
    (h : s.hostWrite addr width w = .next s') :
    ∃ off, windowAccess s.cfg addr width = .ok off ∧
      ((commandTarget off = none ∧ s' = s) ∨
        ∃ t, commandTarget off = some t ∧
          ((∃ i, decode t (lanesOfWord w) = .ok i ∧ exec i s = .next s') ∨
            ((∃ e, decode t (lanesOfWord w) = .error e) ∧ s' = s.noCommandWrite t))) := by
  unfold State.hostWrite at h
  split at h
  · simp at h
  · rename_i off hoff
    refine ⟨off, hoff, ?_⟩
    split at h
    · exact .inl ⟨‹_›, by simpa using h.symm⟩
    · rename_i t ht
      refine .inr ⟨t, ht, ?_⟩
      split at h
      · exact .inl ⟨_, ‹_›, h⟩
      · exact .inr ⟨⟨_, ‹_›⟩, by simpa using h.symm⟩

/-- What a host read can answer. -/
theorem State.hostRead_next {s s' : State} {addr : Nat} {width : AccessWidth}
    (h : s.hostRead addr width = .next s') :
    ∃ off, windowAccess s.cfg addr width = .ok off ∧ s' = { s with reads := s.readReg off :: s.reads } := by
  unfold State.hostRead at h
  split at h
  · simp at h
  · exact ⟨_, ‹_›, by simpa using h.symm⟩

/-- What a round of `poll` can answer. -/
theorem State.hostPoll_next {s s' : State} {addr : Nat} {width : AccessWidth} {mask value : Word}
    (h : s.hostPoll addr width mask value = .next s') :
    s' = s ∨ ({ s with agenda := .poll addr width mask value :: s.agenda } : State).timebase = .next s' := by
  unfold State.hostPoll at h
  split at h
  · simp at h
  · split at h
    · exact .inl (by simpa using h.symm)
    · exact .inr h

/-- Everything a step can do (R7): a tick of the timebase, a read, an accepted or rejected write, an ignored one, the end
of a poll, a test of the host's, or reset. -/
theorem step_cases {s s' : State} (h : step s = .next s') :
    (∃ a, ({ s.popped with agenda := a } : State).timebase = .next s') ∨
      s' = s.popped ∨
      (∃ w, s' = { s.popped with reads := w :: s.reads }) ∨
      (∃ t b i, t ≠ .bus ∧ decode t b = .ok i ∧ exec i s.popped = .next s') ∨
      s' = { s.popped with ow := s.ow.reject } ∨
      s' = { s.popped with agenda := [] } ∨
      s' = s.popped.assertReset := by
  unfold step at h
  cases ha : s.nextAction with
  | tick =>
    rw [ha] at h
    exact .inl ⟨s.popped.agenda, h⟩
  | reset =>
    rw [ha] at h
    exact .inr (.inr (.inr (.inr (.inr (.inr (by simpa [State.act] using h.symm))))))
  | read addr width =>
    rw [ha] at h
    obtain ⟨off, -, rfl⟩ := State.hostRead_next h
    exact .inr (.inr (.inl ⟨_, rfl⟩))
  | write addr width w =>
    rw [ha] at h
    obtain ⟨off, -, ⟨-, rfl⟩ | ⟨t, ht, ⟨i, hi, he⟩ | ⟨-, rfl⟩⟩⟩ := State.hostWrite_next h
    · exact .inr (.inl rfl)
    · exact .inr (.inr (.inr (.inl ⟨t, _, i, commandTarget_ne_bus ht, hi, he⟩)))
    · cases t
      · exact .inr (.inr (.inr (.inr (.inl rfl))))
      · exact .inr (.inl rfl)
      · exact .inr (.inl rfl)
  | poll addr width mask value =>
    rw [ha] at h
    obtain rfl | hp := State.hostPoll_next h
    · exact .inr (.inl rfl)
    · exact .inl ⟨_, hp⟩
  | failUnless mask value =>
    rw [ha] at h
    have h' : s' = s.popped.hostTest mask value := by simpa [State.act] using h.symm
    unfold State.hostTest at h'
    split at h'
    · exact .inr (.inl h')
    · exact .inr (.inr (.inr (.inr (.inr (.inl h')))))

/-! ## Many ticks -/

theorem State.ticks_add (m n : Nat) (s : State) : s.ticks (m + n) = (s.ticks m).ticks n := by
  induction m generalizing s with
  | zero => simp [State.ticks]
  | succ m ih => rw [Nat.succ_add]; exact ih s.tick

theorem State.ticks_succ (n : Nat) (s : State) : s.ticks (n + 1) = (s.ticks n).tick := State.ticks_add n 1 s

theorem State.envAt_tick (s : State) (i : Nat) : s.tick.envAt i = s.envAt (i + 1) := by
  have h : s.draws.envUsed + 1 + i = s.draws.envUsed + (i + 1) := by omega
  simp only [State.envAt, State.tick_draws, Draws.takeEnv, h]
  cases s.draws.env <;> simp [List.getD]

theorem State.envAt_ticks (n : Nat) (s : State) (i : Nat) : (s.ticks n).envAt i = s.envAt (n + i) := by
  induction n generalizing s with
  | zero => simp [State.ticks]
  | succ n ih =>
    show (s.tick.ticks n).envAt i = _
    rw [ih, State.envAt_tick]
    congr 1; omega

theorem State.ticks_cfg (n : Nat) (s : State) : (s.ticks n).cfg = s.cfg := by
  induction n generalizing s with
  | zero => rfl
  | succ n ih => exact (ih s.tick).trans rfl

end Sys2Proof.Machine
end

