-- ==== Sys2Proof/Laws/PerInstr.lean ====
section
/-! SUPPORT. Facts about each command as syntax, one lemma per constructor. -/

namespace Sys2Proof.Laws.EncodeShape

/-- A command has the one length of its format (R110): four bytes for a command register, one for the line. -/
def Statement (i : Instr) : Prop :=
  (encode i).target = i.target ∧ (encode i).bytes.length = if i.target = .bus then 1 else 4

theorem owPullLow (arg : Byte) : Statement (.owPullLow arg) := ⟨rfl, rfl⟩
theorem owRelease (arg : Byte) : Statement (.owRelease arg) := ⟨rfl, rfl⟩
theorem owReset (arg : Byte) : Statement (.owReset arg) := ⟨rfl, rfl⟩
theorem owWriteBit (arg : Byte) : Statement (.owWriteBit arg) := ⟨rfl, rfl⟩
theorem owReadBit (arg : Byte) : Statement (.owReadBit arg) := ⟨rfl, rfl⟩
theorem owWriteByte (arg : Byte) : Statement (.owWriteByte arg) := ⟨rfl, rfl⟩
theorem owReadByte (arg : Byte) : Statement (.owReadByte arg) := ⟨rfl, rfl⟩
theorem owReadTemp (arg : Byte) : Statement (.owReadTemp arg) := ⟨rfl, rfl⟩
theorem thConvert : Statement .thConvert := ⟨rfl, rfl⟩
theorem skipRom : Statement .skipRom := ⟨rfl, rfl⟩
theorem startConversion : Statement .startConversion := ⟨rfl, rfl⟩
theorem readScratchpad : Statement .readScratchpad := ⟨rfl, rfl⟩

end Sys2Proof.Laws.EncodeShape
end

