-- ==== Sys2Proof/Laws/Schedule.lean ====
section
/-! SUPPORT. The schedules in plain numbers (R163, R166, R169, R172, R175, R205): each definition's equation with the
constants of R11 written out. Later proofs use these and unfold no constant. -/

namespace Sys2Proof.Machine

theorem tRstSlot_eq : tRstSlot = 960 := rfl
theorem tByte_eq : tByte = 560 := rfl

theorem secondReset_eq (w : Nat) : secondReset w = 2080 + w := by simp [secondReset, tRstSlot_eq, tByte_eq]

theorem readTempPhase_eq (w k : Nat) : readTempPhase w k =
    if k < 960 then .resetSlot k
    else if k < 1520 then .sendByte 0xCC (k - 960)
    else if k < 2080 then .sendByte 0x44 (k - 1520)
    else if k < 2080 + w then .wait
    else if k < 2080 + w + 960 then .resetSlot (k - (2080 + w))
    else if k < 2080 + w + 1520 then .sendByte 0xCC (k - (2080 + w + 960))
    else if k < 2080 + w + 2080 then .sendByte 0xBE (k - (2080 + w + 1520))
    else if k < 2080 + w + 2640 then .readByte (k - (2080 + w + 2080))
    else if k < 2080 + w + 3200 then .readByte (k - (2080 + w + 2640))
    else .over := by
  simp only [readTempPhase, secondReset_eq, tRstSlot_eq, tByte_eq, Nat.add_assoc, Nat.reduceAdd, Nat.reduceMul]
  rfl

theorem resetDir_eq (j : Nat) : resetDir j = if j < 480 then .output else .input := rfl

theorem resetSampleAt_iff (j : Nat) : resetSampleAt j = true ↔ j = 550 := by
  simp [resetSampleAt, tRstLow, tRstSample]

theorem readSampleAt_iff (j : Nat) : readSampleAt j = true ↔ j = 15 := by
  simp [readSampleAt, tRLow, tRSample]

theorem readByteSampleAt_iff (j : Nat) : readByteSampleAt j = true ↔ j % 70 = 15 := readSampleAt_iff (j % 70)

theorem writeSlotDir_eq (b : Bool) (j : Nat) :
    writeSlotDir b j = if j < (if b then 6 else 60) then .output else .input := rfl

theorem writeByteDir_eq (v : Byte) (j : Nat) :
    writeByteDir v j = if j % 70 < (if v.getLsbD (j / 70) then 6 else 60) then .output else .input := rfl

theorem readSlotDir_eq (j : Nat) : readSlotDir j = if j < 6 then .output else .input := rfl

theorem readByteDir_eq (j : Nat) : readByteDir j = if j % 70 < 6 then .output else .input := rfl

theorem duration_reset (w : Nat) (ss : List Bool) : duration w .reset ss = 960 := rfl
theorem duration_writeBit (w : Nat) (ss : List Bool) : duration w .writeBit ss = 70 := rfl
theorem duration_readBit (w : Nat) (ss : List Bool) : duration w .readBit ss = 70 := rfl
theorem duration_writeByte (w : Nat) (ss : List Bool) : duration w .writeByte ss = 560 := rfl
theorem duration_readByte (w : Nat) (ss : List Bool) : duration w .readByte ss = 560 := rfl

theorem duration_readTemp (w : Nat) (ss : List Bool) : duration w .readTemp ss =
    if ss[0]? = some true then 960 else if ss[1]? = some true then 2080 + w + 960 else 2080 + w + 3200 := by
  simp only [duration, secondReset_eq, tRstSlot_eq, tByte_eq, Nat.add_assoc, Nat.reduceAdd, Nat.reduceMul]

/-- Every command is at its first reset slot or bit slot's low part at offset 0: the line starts low. -/
theorem dir_zero (w : Nat) (op : OwOp) (arg : Byte) (ss : List Bool) : dir w op arg 0 ss = .output := by
  cases op
  · rfl
  · simp only [dir, writeSlotDir_eq]; split <;> simp
  · rfl
  · simp only [dir, writeByteDir_eq]; split <;> simp
  · rfl
  · rfl

/-! ## The bus bytes of OW_READ_TEMP (R118, R205) -/

/-- A byte on the line is one of R118's three. -/
theorem sendByte_one_of {w k : Nat} {v : Byte} {j : Nat} (h : readTempPhase w k = .sendByte v j) :
    v = skipRomByte ∨ v = startConversionByte ∨ v = readScratchpadByte := by
  rw [readTempPhase_eq] at h
  repeat' split at h
  all_goals cases h
  · exact .inl rfl
  · exact .inr (.inl rfl)
  · exact .inl rfl
  · exact .inr (.inr rfl)

/-- OW_READ_TEMP never ends while a byte is on the line. -/
theorem sendByte_not_last {w k : Nat} {v : Byte} {j : Nat} (h : readTempPhase w k = .sendByte v j) (ss : List Bool) :
    k + 1 ≠ duration w .readTemp ss := by
  rw [readTempPhase_eq] at h
  rw [duration_readTemp]
  repeat' split at h
  all_goals cases h
  all_goals (repeat' split) <;> omega

/-- Inside a byte the next offset is the byte's next tick. -/
theorem sendByte_next {w k : Nat} {v : Byte} {j : Nat} (h : readTempPhase w k = .sendByte v j) (hj : j + 1 < 560) :
    readTempPhase w (k + 1) = .sendByte v (j + 1) := by
  rw [readTempPhase_eq] at h ⊢
  repeat' split at h
  all_goals cases h
  · rw [if_neg (by omega), if_pos (by omega), Nat.sub_add_comm (by omega)]
  · rw [if_neg (by omega), if_neg (by omega), if_pos (by omega), Nat.sub_add_comm (by omega)]
  · rw [if_neg (by omega), if_neg (by omega), if_neg (by omega), if_neg (by omega), if_neg (by omega),
      if_pos (by omega), Nat.sub_add_comm (by omega)]
  · rw [if_neg (by omega), if_neg (by omega), if_neg (by omega), if_neg (by omega), if_neg (by omega),
      if_neg (by omega), if_pos (by omega), Nat.sub_add_comm (by omega)]

end Sys2Proof.Machine
end

