-- ==== Sys2Proof/Laws/Therm.lean ====
section
/-! SUPPORT. The thermistor's functions (R232–R236): rational and real algebra agree, the range is tested exactly, and
the accuracy property can be met. -/

namespace Sys2Proof.Machine

/-! ## Rational and real resistance -/

theorem realRes_cast (p : ThermParams) (c : BitVec 12) : ((resistance p c : ℚ) : ℝ) = realRes p c := by
  unfold resistance realRes Config.maxCode
  cases p.topology <;> push_cast <;> rfl

theorem realVolt_cast (p : ThermParams) (c : BitVec 12) : ((voltage p c : ℚ) : ℝ) = realVolt p c := by
  unfold voltage realVolt Config.maxCode
  push_cast
  rfl

/-! ## The test of the range (R235, order 3) -/

/-- With BETA and T0 positive the test is exact. -/
theorem outOfRange_iff {p : ThermParams} (h : 0 < p.beta / p.t0) (c : BitVec 12) :
    outOfRange p c = true ↔ Real.exp ((p.beta / p.t0 : ℚ) : ℝ) ≤ ((p.rRef / resistance p c : ℚ) : ℝ) := by
  rw [outOfRange, dif_pos h]
  exact expLe_iff h _

/-! ## N4 can be met (R236) -/

/-- A valid code has a positive resistance (R235, order 2). -/
theorem realRes_pos_of_valid {p : ThermParams} {c : BitVec 12} (h : reasonOf p c = .none) : 0 < realRes p c := by
  unfold reasonOf at h
  split at h
  · simp at h
  · split at h
    · simp at h
    · rename_i hr
      rw [← realRes_cast]
      exact_mod_cast not_le.mp hr

theorem realVolt_ne_zero {p : ThermParams} {c : BitVec 12} (hp : 0 < p.vs) (hc : c ≠ 0) : realVolt p c ≠ 0 := by
  have h1 : (p.vs : ℝ) ≠ 0 := by exact_mod_cast hp.ne'
  have h2 : (c.toNat : ℝ) ≠ 0 := by
    have : c.toNat ≠ 0 := fun h => hc (BitVec.eq_of_toNat_eq h)
    exact_mod_cast this
  unfold realVolt
  positivity

/-- One term of a sum of absolute values is at most the sum, over all codes. -/
theorem le_sum_codes (f : BitVec 12 → ℝ) (hf : ∀ c, 0 ≤ f c) (c : BitVec 12) :
    f c ≤ ∑ n ∈ Finset.range 4096, f (BitVec.ofNat 12 n) := by
  have h := Finset.single_le_sum (f := fun n => f (BitVec.ofNat 12 n)) (fun n _ => hf _)
    (Finset.mem_range.mpr c.isLt)
  simpa using h

/-- Whatever the free function is, some bounds EPS_V, EPS_R, EPS_T fit it: N4 excludes no choice of it. -/
theorem exists_accurate (p : ThermParams) (hp : 0 < p.vs) : ∃ epsV epsR epsT, Accurate p epsV epsR epsT := by
  let dV := fun c => |((f32Value (thermNumerics p c).volt : ℚ) : ℝ) - realVolt p c|
  let dR := fun c => |((f32Value (thermNumerics p c).res : ℚ) : ℝ) - realRes p c|
  let dT := fun c => |((f32Value (thermNumerics p c).tempC : ℚ) : ℝ) - realTempC p (realRes p c)|
  refine ⟨∑ n ∈ Finset.range 4096, dV (BitVec.ofNat 12 n) / |realVolt p (BitVec.ofNat 12 n)|,
    ∑ n ∈ Finset.range 4096, dR (BitVec.ofNat 12 n) / |realRes p (BitVec.ofNat 12 n)|,
    ∑ n ∈ Finset.range 4096, dT (BitVec.ofNat 12 n), ?_, ?_⟩
  · intro c
    by_cases hc : c = 0
    · subst hc
      have h0 : f32Value (thermNumerics p 0#12).volt = 0 := by
        show f32Value 0#32 = 0
        decide +kernel
      simp [h0, realVolt]
    · have hv : 0 < |realVolt p c| := abs_pos.mpr (realVolt_ne_zero hp hc)
      have h := le_sum_codes (fun c => dV c / |realVolt p c|) (fun c => by positivity) c
      exact (div_le_iff₀ hv).mp h
  · intro c hc
    have hr : 0 < |realRes p c| := abs_pos.mpr (realRes_pos_of_valid hc).ne'
    exact ⟨(div_le_iff₀ hr).mp (le_sum_codes (fun c => dR c / |realRes p c|) (fun c => by positivity) c),
      le_sum_codes dT (fun c => by positivity) c⟩

end Sys2Proof.Machine
end

