-- ==== Sys2Proof/Tests/Slice0.lean ====
section
/-! SUPPORT. Tests: the smoke test of the well-formedness checks, words decoded as 30_encoding and the vectors of
95_test_vectors give them, one or two single steps per command, and for every statement of Obligations.lean a state
and operands that meet its hypotheses. Expected values come from the spec (vector or rule named at each test), never from
the model. -/

namespace Sys2Proof.Tests

open Sys2Proof Sys2Proof.Machine

/-! ## Helpers -/

/-- The state an outcome answers, or the reset state. -/
def stateOf : Host.Outcome State Fault Refusal → State
  | .next t => t
  | .fault _ => State.reset
  | .refused _ => State.reset

/-- Whether an outcome is a next state. -/
def isNext : Host.Outcome State Fault Refusal → Bool
  | .next _ => true
  | .fault _ => false
  | .refused _ => false

theorem next_of_isNext {o : Host.Outcome State Fault Refusal} (h : isNext o = true) : o = .next (stateOf o) := by
  cases o <;> simp_all [isNext, stateOf]

/-- The reset state with another OW unit. -/
def withOw (u : Ow) : State := { State.reset with ow := u }

/-- The reset state with these actions to come. -/
def toDo (l : List Action) : State := { State.reset with agenda := l }

/-- The reset state with these line levels and ADC codes to come. -/
def drawing (env : List Bool) (adc : List (BitVec 12)) : State := { State.reset with draws := ⟨env, 0, adc, 0⟩ }

/-- A timed command at offset `k` with these samples, in a build whose conversion wait is `w`. -/
def running (w : Nat) (op : OwOp) (arg : Byte) (k : Nat) (samples : List Bool) : Ow :=
  { Ow.acceptTimed w op arg Ow.reset with k := k, samples := samples, dir := Machine.dir w op arg k samples }

/-- The standard build with TH_LATENCY = 5 (V12). -/
def latency5 : Config := { Config.standard with thLatency := 5 }

/-! ## Well-formedness: each check refuses an ill-formed term -/

theorem test_standard_build_well_formed : Config.standard.wellFormed = true := by decide +kernel
theorem test_base_not_multiple_of_64_refused : { Config.standard with owtBase := 32 }.wellFormed = false := by
  decide +kernel
theorem test_short_wait_refused : { Config.standard with convWaitUs := 749999 }.wellFormed = false := by decide +kernel
theorem test_zero_rRef_refused : { Config.standard.therm with rRef := 0 }.wellFormed = false := by decide +kernel
theorem test_zero_t0_refused : { Config.standard.therm with t0 := 0 }.wellFormed = false := by decide +kernel
theorem test_zero_beta_refused : { Config.standard.therm with beta := 0 }.wellFormed = false := by decide +kernel
theorem test_zero_rf_refused : { Config.standard.therm with rf := 0 }.wellFormed = false := by decide +kernel
theorem test_negative_vs_refused : { Config.standard.therm with vs := -1 }.wellFormed = false := by decide +kernel
theorem test_access_below_window_refused : accessWellFormed 64 60 .word = false := by decide
theorem test_access_above_window_refused : accessWellFormed 64 128 .word = false := by decide
theorem test_half_access_refused : accessWellFormed 64 64 .half = false := by decide
theorem test_byte_access_refused : accessWellFormed 64 64 .byte = false := by decide
theorem test_unaligned_access_refused : accessWellFormed 64 66 .word = false := by decide
theorem test_last_slot_access_well_formed : accessWellFormed 64 124 .word = true := by decide

/-! ## Decoding: words written out from R111–R113, R118, R123 and vector V1 -/

-- OP 1, ARG 0x00: bits 0000 0000 0000 0000 | 0000 0000 | 0000 | 0001
theorem test_decode_pull_low : decode .owCtrl [0b00000001, 0b00000000, 0b00000000, 0b00000000] = .ok (.owPullLow 0) := by
  decide
theorem test_decode_release : decode .owCtrl [0b00000010, 0, 0, 0] = .ok (.owRelease 0) := by decide
-- V1, 0xFFFF00F3: reserved bits 31:16 and 7:4 set, ARG 0x00, OP 3
theorem test_decode_reset_reserved_bits : decode .owCtrl [0b11110011, 0b00000000, 0b11111111, 0b11111111] =
    .ok (.owReset 0) := by decide
-- V1, 0x0000FE04
theorem test_decode_write_bit : decode .owCtrl [0b00000100, 0b11111110, 0, 0] = .ok (.owWriteBit 0xFE) := by decide
theorem test_decode_read_bit : decode .owCtrl [0b00000101, 0, 0, 0] = .ok (.owReadBit 0) := by decide
-- R123, ow.wbyte 0xCC = 0x0000CC06
theorem test_decode_write_byte : decode .owCtrl [0b00000110, 0b11001100, 0, 0] = .ok (.owWriteByte 0xCC) := by decide
theorem test_decode_read_byte : decode .owCtrl [0b00000111, 0, 0, 0] = .ok (.owReadByte 0) := by decide
theorem test_decode_read_temp : decode .owCtrl [0b00001000, 0, 0, 0] = .ok (.owReadTemp 0) := by decide
-- V1, 0xFFFFFFFF to TH_CTRL
theorem test_decode_convert : decode .thCtrl [0b11111111, 0b11111111, 0b11111111, 0b11111111] = .ok .thConvert := by
  decide
-- V1, 0xFFFFFFFE to TH_CTRL
theorem test_decode_no_start : decode .thCtrl [0b11111110, 0b11111111, 0b11111111, 0b11111111] = .error .noCommand := by
  decide
-- opcode table, bit 7 leftmost: 11001100, 01000100, 10111110
theorem test_decode_skip_rom : decode .bus [0b11001100] = .ok .skipRom := by decide
theorem test_decode_start_conversion : decode .bus [0b01000100] = .ok .startConversion := by decide
theorem test_decode_read_scratchpad : decode .bus [0b10111110] = .ok .readScratchpad := by decide
theorem test_decode_plain_bus_byte : decode .bus [0x4E] = .error (.plainBusByte 0x4E) := by decide
theorem test_decode_illegal_ops : ∀ op ∈ [0x00#8, 0x09#8, 0x0A#8, 0x0B#8, 0x0C#8, 0x0D#8, 0x0E#8, 0x0F#8],
    decode .owCtrl [op, 0, 0, 0] = .error (.illegalOp (op.setWidth 4)) := by decide
theorem test_decode_short : decode .owCtrl [0x03] = .error (.badLength 1) := by decide
-- R123: the words of the assembler syntax, least significant lane first
theorem test_encode_write_byte : (encode (.owWriteByte 0xCC)).bytes = [0x06, 0xCC, 0x00, 0x00] := by decide
theorem test_encode_write_bit_1 : (encode (.owWriteBit 1)).bytes = [0x04, 0x01, 0x00, 0x00] := by decide
-- the table's rows as bare numbers (log 9)
theorem test_table_words : decodeTableWord 32 0x00000001 = some (.owPullLow 0) ∧
    decodeTableWord 32 0x0000FE04 = some (.owWriteBit 0xFE) ∧ decodeTableWord 8 0xCC = some .skipRom ∧
    decodeTableWord 32 0x00000009 = some .thConvert ∧ decodeTableWord 32 0 = none := by decide

/-! ## Single steps, from the vectors of 95_test_vectors -/

-- V2.1: from reset, ow.pull_low: OW_STATUS = 0x22, OW_CTRL = 1
theorem test_pull_low : (stateOf (step (State.reset.withFetchWord 32 0x00000001))).readReg 0x04 = 0x22 := by decide
-- V2.6: during an OW_RESET, ow.pull_low sets CMD_ERR: 0x21 becomes 0x31
theorem test_pull_low_busy :
    (stateOf (step ((withOw (running 750000 .reset 0 7 [])).withFetchWord 32 0x00000001))).readReg 0x04 = 0x31 := by
  decide
-- V2.3: ow.release after ow.pull_low: 0x02
theorem test_release : (stateOf (step ((stateOf (step (State.reset.withFetchWord 32 1))).withFetchWord 32 2))).readReg 0x04 =
    0x02 := by decide
-- V1: 0xFFFF00F3 is accepted as OW_RESET: OW_STATUS = 0x21, OW_CTRL reads 3
theorem test_reset_accepted :
    let t := stateOf (step (State.reset.withFetchWord 32 0xFFFF00F3))
    t.readReg 0x04 = 0x21 ∧ t.readReg 0x00 = 0x00000003 := by decide
-- V3.3: the sample of a reset slot at 550 reads 0; at 960 OW_STATUS = 0x06
theorem test_reset_presence :
    (stateOf (step { withOw (running 750000 .reset 0 550 []) with draws := ⟨[false], 0, [], 0⟩ })).ow.samples = [false] ∧
    (stateOf (step (withOw (running 750000 .reset 0 959 [false])))).readReg 0x04 = 0x06 := by decide
-- V4.3: word 0x0000FE04 writes a 0 bit: OW_CTRL keeps ARG, the line is low at offset 59 and released at 60
theorem test_write_bit_arg0 :
    (stateOf (step (State.reset.withFetchWord 32 0x0000FE04))).readReg 0x00 = 0x0000FE04 ∧
    (running 750000 .writeBit 0xFE 59 []).dir = .output ∧
    (stateOf (step (withOw (running 750000 .writeBit 0xFE 59 [])))).ow.dir = .input := by decide
-- V4.4: word 0x0000FF04 writes a 1 bit: low for 6 ticks; V4: OW_STATUS = 0x02 at 70
theorem test_write_bit_1 :
    (stateOf (step (withOw (running 750000 .writeBit 0xFF 5 [])))).ow.dir = .input ∧
    (stateOf (step (withOw (running 750000 .writeBit 0xFF 69 [])))).readReg 0x04 = 0x02 := by decide
-- V5.1 and V5.2: the level at 15 is the bit
theorem test_read_bit :
    (stateOf (step (withOw (running 750000 .readBit 0 69 [false])))).readReg 0x08 = 0x00000000 ∧
    (stateOf (step (withOw (running 750000 .readBit 0 69 [true])))).readReg 0x08 = 0x00000001 := by decide
-- V6.1: 0xCC: low during 140–145, released at 146; low again from 210
theorem test_write_byte_slots :
    (stateOf (step (withOw (running 750000 .writeByte 0xCC 145 [])))).ow.dir = .input ∧
    (stateOf (step (withOw (running 750000 .writeByte 0xCC 209 [])))).ow.dir = .output ∧
    (stateOf (step (withOw (running 750000 .writeByte 0xCC 128 [])))).ow.dir = .output := by decide
-- V7.1: samples 1,0,0,0,1,0,0,1 give 0x91
theorem test_read_byte :
    (stateOf (step (withOw (running 750000 .readByte 0 559
      [true, false, false, false, true, false, false, true])))).readReg 0x08 = 0x00000091 := by decide
-- V9.1: completion of a successful OW_READ_TEMP with LSB 0x91 and MSB 0x01
theorem test_read_temp_success :
    let t := stateOf (step (withOw (running 750000 .readTemp 0 755279 [false, false,
      true, false, false, false, true, false, false, true, true, false, false, false, false, false, false, false])))
    t.readReg 0x04 = 0x06 ∧ t.readReg 0x0C = 0x00000191 ∧ t.readReg 0x10 = 0x41C88000 ∧ t.readReg 0x08 = 0 := by decide
-- V9.2: no presence at the first reset: complete at 960 with 0x0A and the sentinel
theorem test_read_temp_no_presence :
    let t := stateOf (step (withOw (running 750000 .readTemp 0 959 [true])))
    t.readReg 0x04 = 0x0A ∧ t.readReg 0x10 = 0xC47A0000 ∧ t.readReg 0x0C = 0 := by decide
-- V8: decoded words
theorem test_temp_bits : ([0x0001, 0x0550, 0xFF5E, 0x7FFF, 0x8000, 0xC180].map tempBits) =
    [0x3D800000, 0x42AA0000, 0xC1220000, 0x44FFFE00, 0xC5000000, 0xC47A0000] := by decide
-- P3: 0xCC and 0x44 at ticks 960–2079: at 960 slot 0 of 0xCC, a 0 bit, is low; exec answers one tick
theorem test_skip_rom_tick :
    (stateOf (step (State.reset.withFetchWord 8 0xCC))).ow.k = 961 ∧
    (stateOf (exec .skipRom (withOw (running 750000 .readTemp 0 (960 + 145) [false])))).ow.dir = .input := by decide
-- V6.5: 0x44 has 6-tick lows in slots 2 and 6
theorem test_start_conversion_tick :
    (stateOf (step (State.reset.withFetchWord 8 0x44))).ow.k = 1521 ∧
    (stateOf (exec .startConversion (withOw (running 750000 .readTemp 0 (1520 + 145) [false])))).ow.dir = .input := by
  decide
-- V6.6: 0xBE has 60-tick lows in slots 0 and 6, 6-tick lows elsewhere; B + 1520 = 753600
theorem test_read_scratchpad_tick :
    (stateOf (step (State.reset.withFetchWord 8 0xBE))).ow.k = 753601 ∧
    (stateOf (exec .readScratchpad (withOw (running 750000 .readTemp 0 (753600 + 75) [false, false])))).ow.dir = .input ∧
    (stateOf (exec .readScratchpad (withOw (running 750000 .readTemp 0 (753600 + 425) [false, false])))).ow.dir =
      .output := by decide
-- V11.1: TH_LATENCY = 0, code 0: TH_STATUS = 0x0E, TH_VOLT = 0
theorem test_convert_code_0 :
    let t := stateOf (step ({ drawing [] [0] with agenda := [.write 0x20 .word 1] }))
    t.readReg 0x24 = 0x0E ∧ t.readReg 0x2C = 0 ∧ t.readReg 0x28 = 0 := by decide +kernel
-- V12.3: TH_LATENCY = 5, a start while BUSY: 0x21
theorem test_convert_busy :
    (stateOf (exec .thConvert (stateOf (exec .thConvert (State.resetOf latency5))))).readReg 0x24 = 0x21 := by
  decide +kernel
-- V11.2, V11.5, V11.6 and the example of REASON 3 below V11
theorem test_reasons :
    reasonOf Config.standard.therm 4095 = .nonpositiveResistance ∧
    reasonOf { Config.standard.therm with topology := .fixedHigh } 4095 = .zeroVoltage ∧
    reasonOf { Config.standard.therm with topology := .fixedHigh } 0 = .nonpositiveResistance ∧
    reasonOf { Config.standard.therm with rf := 1 } 4094 = .temperatureOutOfRange ∧
    reasonOf Config.standard.therm 4094 = .none ∧ reasonOf Config.standard.therm 1 = .none := by decide +kernel
-- P5: an illegal OP after completion leaves DONE and sets CMD_ERR
theorem test_illegal_op : (stateOf (step (State.reset.withFetchWord 32 0))).readReg 0x04 = 0x10 := by decide
-- V13.2: reset while the line is held
theorem test_reset_action :
    let t := stateOf (step { stateOf (step (State.reset.withFetchWord 32 1)) with agenda := [.reset] })
    t.readReg 0x04 = 0 ∧ t.ow.dir = .input := by decide
-- R124: a read notes the word
theorem test_read_notes_word : (stateOf (step (toDo [.read 0x04 .word]))).reads = [0x00000000] := by decide

/-! ## Witnesses: for every statement with hypotheses, a state and operands that meet them all -/

/-- A free-running line: this many ticks at level 1. -/
def highFor (n : Nat) : State := drawing (List.replicate n true) []

/-- This many ticks at level 0. -/
def lowLine (n : Nat) : State := drawing (List.replicate n false) []

theorem envAt_append {n i : Nat} (h : i ≤ n) :
    (drawing (List.replicate n false ++ [true]) []).envAt i = decide (i = n) := by
  rcases Nat.lt_or_eq_of_le h with h | rfl
  · simp [State.envAt, drawing, List.getD, List.getElem?_append, h, Nat.ne_of_lt h]
  · simp [State.envAt, drawing, List.getD]

theorem exec_read_byte_next (arg : Byte) (s : State) :
    exec (.owReadByte arg) s = .next (stateOf (exec (.owReadByte arg) s)) := rfl

theorem exec_read_byte_envAt (arg : Byte) (s : State) (i : Nat) :
    (stateOf (exec (.owReadByte arg) s)).envAt i = s.envAt i := rfl

theorem envAt_replicate {n i : Nat} (b : Bool) (h : i < n) : (drawing (List.replicate n b) []).envAt i = b := by
  simp [State.envAt, drawing, List.getD, h]

theorem witness_ResetActionRestoresAll : (toDo [.reset, .tick]).agenda = Action.reset :: [.tick] := rfl

theorem witness_ReadsHaveNoSideEffect :
    (toDo [.read 0x3C .word]).agenda = Action.read ((toDo [.read 0x3C .word]).cfg.owtBase + 0x3C) .word :: [] ∧
    0x3C < 64 ∧ 0x3C % 4 = 0 := by decide

theorem witness_WritesToOtherSlotsIgnored :
    ∀ off ∈ [0x04, 0x3C], (toDo [.write off .word 7]).agenda =
      Action.write ((toDo [.write off .word 7]).cfg.owtBase + off) .word 7 :: [] := by decide

theorem witness_UndefinedAccessRefused_width :
    (0 < 64 ∧ (AccessWidth.byte ≠ AccessWidth.word ∨ 0 % 4 ≠ 0)) ∧
    (toDo [.read 0 .byte]).agenda = Action.read ((toDo [.read 0 .byte]).cfg.owtBase + 0) .byte :: [] := by decide

theorem witness_UndefinedAccessRefused_offset :
    (63 < 64 ∧ (AccessWidth.word ≠ AccessWidth.word ∨ 63 % 4 ≠ 0)) ∧
    (toDo [.write 63 .word 1]).agenda = Action.write ((toDo [.write 63 .word 1]).cfg.owtBase + 63) .word 1 :: [] := by
  decide

theorem witness_UndefinedAccessRefused_poll :
    (1 < 64 ∧ (AccessWidth.half ≠ AccessWidth.word ∨ 1 % 4 ≠ 0)) ∧
    (toDo [.poll 1 .half 1 0]).agenda = Action.poll ((toDo [.poll 1 .half 1 0]).cfg.owtBase + 1) .half 1 0 :: [] := by
  decide

theorem witness_StepsUnlessAccessUndefined :
    (toDo [.read 0x3C .word]).nextAction.defined 0 = true ∧ (toDo [.read 0x3C .half]).nextAction.defined 0 = false ∧
    (toDo [.read 64 .word]).nextAction.defined 0 = false := by decide

theorem witness_PollWaitsForItsCondition_holds :
    (toDo [.poll 4 .word 1 0]).agenda = Action.poll ((toDo [.poll 4 .word 1 0]).cfg.owtBase + 4) .word 1 0 :: [] ∧
    4 < 64 ∧ 4 % 4 = 0 ∧ (toDo [.poll 4 .word 1 0]).readReg 4 &&& 1 = 0 := by decide

theorem witness_PollWaitsForItsCondition_waits :
    (toDo [.poll 4 .word 1 1]).agenda = Action.poll ((toDo [.poll 4 .word 1 1]).cfg.owtBase + 4) .word 1 1 :: [] ∧
    (toDo [.poll 4 .word 1 1]).readReg 4 &&& 1 ≠ 1 := by decide

theorem witness_ByteLanesLittleEndian : 3 < 4 ∧ 7 < 8 ∧ (0x80000000 : Word).getLsbD (8 * 3 + 7) = true := by decide

theorem witness_DecodeEncodeAgree :
    decode .owCtrl [0xF8, 0xFF, 0xFF, 0xFF] = .ok (.owReadTemp 0xFF) ∧
    decode .thCtrl [0xFF, 0xFF, 0xFF, 0xFF] = .ok .thConvert ∧ decode .bus [0xBE] = .ok .readScratchpad := by decide

theorem witness_StepRunsWrittenCommand_ow :
    (toDo [.write 0 .word 0xA506]).agenda =
      Action.write ((toDo [.write 0 .word 0xA506]).cfg.owtBase + 0x00) .word 0xA506 :: [] ∧
    decode .owCtrl (lanesOfWord 0xA506) = .ok (.owWriteByte 0xA5) ∧
    decode .owCtrl (lanesOfWord 0xF) = .error (.illegalOp 0xF) := by decide

theorem witness_StepRunsWrittenCommand_th :
    (toDo [.write 0x20 .word 1]).agenda = Action.write ((toDo [.write 0x20 .word 1]).cfg.owtBase + 0x20) .word 1 :: [] ∧
    decode .thCtrl (lanesOfWord 1) = .ok .thConvert ∧ decode .thCtrl (lanesOfWord 2) = .error .noCommand := by decide

theorem witness_StepRunsBusCommandOnTheLine :
    (withOw (running 750000 .readTemp 0 1519 [false])).nextAction = Action.tick ∧
    (withOw (running 750000 .readTemp 0 1519 [false])).ow.sending 750000 = some (0xCC, 559) ∧
    (withOw (running 750000 .readTemp 0 1520 [false])).ow.sending 750000 = some (0x44, 0) ∧
    (withOw (running 750000 .readTemp 0 753600 [false, false])).ow.sending 750000 = some (0xBE, 0) ∧
    decode .bus [0xCC] = .ok .skipRom := by decide

theorem witness_PlacedWordRunsNext :
    decodeOw 0x8 = .ok (.owReadTemp 0) ∧ decodeOw 0x9 = .error (.illegalOp 9) ∧ decodeTh 0x9 = .ok .thConvert ∧
    decodeBus 0x44 = .ok .startConversion := by decide

/-- R114: ARG is latched into `ow_arg` and reads back in OW_CTRL, though the command does not use it. -/
theorem test_line_command_latches_arg :
    (stateOf (exec (.owRelease 0xA5) State.reset)).ow.arg = 0xA5#8 ∧
    (stateOf (exec (.owRelease 0xA5) State.reset)).readReg 0x00 = 0x0000A502#32 := by decide

theorem witness_LineCommandsComplete : State.reset.ow.busy = false := rfl

theorem witness_TimedCommandsAccepted : State.reset.ow.busy = false := rfl

theorem witness_RejectedWriteSetsOnlyCmdErr_busy :
    let s : State := { withOw (running 750000 .reset 0 0 []) with agenda := [.write 0 .word 5] }
    s.agenda = Action.write (s.cfg.owtBase + 0x00) .word 5 :: [] ∧ s.ow.busy = true := by decide

theorem witness_RejectedWriteSetsOnlyCmdErr_illegal :
    ((0xFFFFFFF0 : Word) &&& 0xF#32).toNat = 0 ∧ 9 ≤ ((9 : Word) &&& 0xF#32).toNat ∧
    9 ≤ ((0xF : Word) &&& 0xF#32).toNat := by decide

theorem witness_OnlyResetStopsACommand_runs :
    let s := withOw (running 750000 .reset 0 958 [false])
    s.ow.busy = true ∧ s.ow.op = some .reset ∧ s.nextAction ≠ Action.reset ∧
    step s = .next (stateOf (step s)) ∧ (stateOf (step s)).ow.busy = true :=
  ⟨by decide, by decide, by decide, next_of_isNext (by decide), by decide⟩

theorem witness_OnlyResetStopsACommand_ends :
    let s := withOw (running 750000 .reset 0 959 [false])
    s.ow.busy = true ∧ s.ow.op = some .reset ∧ s.nextAction ≠ Action.reset ∧
    step s = .next (stateOf (step s)) ∧ (stateOf (step s)).ow.busy = false :=
  ⟨by decide, by decide, by decide, next_of_isNext (by decide), by decide⟩

theorem witness_OnlyResetStopsACommand_write :
    let s : State := { withOw (running 750000 .reset 0 959 [false]) with agenda := [.write 0 .word 1] }
    s.ow.busy = true ∧ s.ow.op = some .reset ∧ s.nextAction ≠ Action.reset ∧
    step s = .next (stateOf (step s)) ∧ (stateOf (step s)).now = s.now :=
  ⟨by decide, by decide, by decide, next_of_isNext (by decide), by decide⟩

theorem witness_TickStepIsR153 :
    State.reset.nextAction = Action.tick ∧ State.reset.ow.busy = false ∧
    (withOw (running 750000 .readBit 0 15 [])).nextAction = Action.tick ∧
    (withOw (running 750000 .readBit 0 15 [])).ow.busy = true ∧
    (withOw (running 750000 .readBit 0 15 [])).ow.op = some .readBit := by decide

theorem witness_BusCommandsSendTheirByte :
    ∀ k ∈ [960, 1519, 1520, 2079, 753040, 753599, 753600, 754159],
      (withOw (running 750000 .readTemp 0 k [false, false])).ow.busy = true ∧
      (withOw (running 750000 .readTemp 0 k [false, false])).ow.op = some .readTemp ∧
      ((960 ≤ k ∧ k < 960 + 560) ∨ (1520 ≤ k ∧ k < 1520 + 560) ∨
        (2080 + 750000 + 960 ≤ k ∧ k < 2080 + 750000 + 960 + 560) ∨
        (2080 + 750000 + 1520 ≤ k ∧ k < 2080 + 750000 + 1520 + 560)) := by decide

theorem witness_BusCommandsRefusedElsewhere :
    ∀ v ∈ [0xCC#8, 0x44#8, 0xBE#8], ∀ j, State.reset.ow.sending State.reset.cfg.convWaitUs ≠ some (v, j) := by
  intro v _ j
  simp [State.reset, State.resetOf, Ow.reset, Ow.sending]

theorem witness_IdleUnitHoldsTheLine :
    (stateOf (exec (.owPullLow 0) State.reset)).ow.busy = false ∧
    (stateOf (exec (.owPullLow 0) State.reset)).drivesLow = true := by decide

theorem witness_NoResultBeforeCompletion :
    let s := withOw (running 750000 .readByte 0 505 [true, true, true, true, true, true, true])
    s.ow.busy = true ∧ s.nextAction ≠ Action.reset ∧ (∃ t, step s = .next t) ∧ (stateOf (step s)).ow.busy = true := by
  refine ⟨rfl, by decide, ⟨_, rfl⟩, by decide⟩

theorem witness_SamplesOnlyOnReleasedLine :
    (550 < duration 7 .reset [] ∧ isSample 7 .reset 550 [] = true) ∧
    (15 < duration 7 .readBit [] ∧ isSample 7 .readBit 15 [] = true) ∧
    (505 < duration 7 .readByte [] ∧ isSample 7 .readByte 505 [] = true) ∧
    (550 < duration 7 .readTemp [] ∧ isSample 7 .readTemp 550 [] = true) ∧
    (2637 < duration 7 .readTemp [false] ∧ isSample 7 .readTemp 2637 [false] = true) ∧
    (5232 < duration 7 .readTemp [false, false] ∧ isSample 7 .readTemp 5232 [false, false] = true) := by decide

theorem witness_ResetSlotDetectsPresence : State.reset.ow.busy = false := rfl
theorem witness_WriteBitDrivesItsSlot : State.reset.ow.busy = false := rfl
theorem witness_ReadBitReadsOffset15 : State.reset.ow.busy = false := rfl
theorem witness_WriteByteSendsLsbFirst : State.reset.ow.busy = false := rfl
theorem witness_ReadByteReceivesLsbFirst : State.reset.ow.busy = false := rfl

/-- The byte 0xFF leaves the line released at each of its sample points, and the line stays at 1 (V7.2, E1). -/
theorem witness_LoopbackReturnsTheByte :
    let s := highFor 2000
    let t := stateOf (exec (.owWriteByte 0xFF) s)
    let r := stateOf (exec (.owReadByte 0) (t.ticks 560))
    s.ow.busy = false ∧ exec (.owWriteByte 0xFF) s = .next t ∧ exec (.owReadByte 0) (t.ticks 560) = .next r ∧
    ∀ i, i < 8 → r.envAt (70 * i + 15) = !(t.ticks (70 * i + 15)).drivesLow := by
  refine ⟨rfl, rfl, exec_read_byte_next _ _, ?_⟩
  intro i hi
  have h1 : (stateOf (exec (.owReadByte 0) ((stateOf (exec (.owWriteByte 0xFF) (highFor 2000))).ticks 560))).envAt
      (70 * i + 15) = true := by
    rw [exec_read_byte_envAt, State.envAt_ticks]
    exact envAt_replicate true (by omega)
  have h2 : ∀ i, i < 8 →
      ((stateOf (exec (.owWriteByte 0xFF) (highFor 2000))).ticks (70 * i + 15)).drivesLow = false := by
    have h : ∀ i : Fin 8,
        ((stateOf (exec (.owWriteByte 0xFF) (highFor 2000))).ticks (70 * i.val + 15)).drivesLow = false := by
      decide +kernel
    exact fun i hi => h ⟨i, hi⟩
  simp only [h1, h2 i hi, Bool.not_false]

theorem witness_ReadTempFailsAtFirstReset : (highFor 551).ow.busy = false ∧ (highFor 551).envAt 550 = true :=
  ⟨rfl, envAt_replicate true (by omega)⟩

theorem witness_ReadTempFailsAtSecondReset :
    let s := drawing (List.replicate 752630 false ++ [true]) []
    s.ow.busy = false ∧ s.envAt 550 = false ∧ s.envAt (2080 + s.cfg.convWaitUs + 550) = true := by
  refine ⟨rfl, (envAt_append (by decide)).trans (by decide), ?_⟩
  exact (envAt_append (by decide)).trans (by decide)

theorem witness_ReadTempSucceeds :
    let s := lowLine 755280
    s.ow.busy = false ∧ s.envAt 550 = false ∧ s.envAt (2080 + s.cfg.convWaitUs + 550) = false :=
  ⟨rfl, envAt_replicate false (by decide), envAt_replicate false (by decide)⟩

theorem witness_ConversionWaitIsExact :
    let s := withOw (running 750000 .readTemp 0 2080 [false])
    s.ow.busy = true ∧ s.ow.op = some .readTemp ∧ s.ow.k = 2080 ∧ s.ow.samples = [false] ∧ s.ow.dir = .input ∧
    0 < s.cfg.convWaitUs ∧ 750000 ≤ s.cfg.convWaitUs := by decide

/-- Two different states over the same line. -/
theorem witness_ReadTempDependsOnSamplesOnly :
    let s := lowLine 755280
    let s' : State := { lowLine 755280 with now := 5, ow := { Ow.reset with rx := 7, tempC := 9 } }
    s.cfg.convWaitUs = s'.cfg.convWaitUs ∧ s.ow.busy = false ∧ s'.ow.busy = false ∧
    exec (.owReadTemp 1) s = .next (stateOf (exec (.owReadTemp 1) s)) ∧
    exec (.owReadTemp 2) s' = .next (stateOf (exec (.owReadTemp 2) s')) ∧ ∀ k, s.envAt k = s'.envAt k :=
  ⟨rfl, rfl, rfl, rfl, rfl, fun _ => rfl⟩

theorem witness_ThConvertAccepted :
    (State.resetOf latency5).th.busy = false ∧ 0 < (State.resetOf latency5).cfg.thLatency ∧
    State.reset.th.busy = false ∧ State.reset.cfg.thLatency = 0 := by decide

theorem witness_ThStartWhileBusyRejected :
    let s : State := { stateOf (exec .thConvert (State.resetOf latency5)) with agenda := [.write 0x20 .word 1] }
    s.agenda = Action.write (s.cfg.owtBase + 0x20) .word 1 :: [] ∧ (1 : Word).getLsbD 0 = true ∧ s.th.busy = true := by
  decide +kernel

theorem witness_ThStartWhileBusyRejected_agrees :
    let s : State := stateOf (exec .thConvert (State.resetOf latency5))
    s.th.ResultsAgree s.cfg ∧ s.th.busy = true := by
  refine ⟨⟨?_, ?_, ?_, ?_, ?_, ?_, ?_, ?_, ?_, ?_⟩, ?_⟩ <;> decide +kernel

theorem witness_ThConversionTakesLatency :
    let s := stateOf (exec .thConvert (State.resetOf latency5))
    s.th.busy = true ∧ s.th.k = 0 ∧ 0 < s.cfg.thLatency := by decide +kernel

theorem witness_EndCodesInvalid : Config.standard.therm.wellFormed = true ∧
    { Config.standard.therm with topology := .fixedHigh }.wellFormed = true ∧
    reasonOf Config.standard.therm 1 ≠ .zeroVoltage := by decide +kernel

theorem witness_RangeDecisionIsSound :
    let p := Config.standard.therm
    let q := { p with rf := 1 }
    (p.wellFormed = true ∧ 0 < realRes p 4094 ∧ reasonOf p 4094 = .none) ∧
    (q.wellFormed = true ∧ 0 < realRes q 4094 ∧ reasonOf q 4094 = .temperatureOutOfRange) := by
  refine ⟨⟨by decide +kernel, ?_, by decide +kernel⟩, ⟨by decide +kernel, ?_, by decide +kernel⟩⟩ <;>
    simp [realRes, Config.standard] <;> norm_num

theorem witness_DefaultsRejectTwoCodes :
    let p := Config.standard.therm
    p.rRef = 8300 ∧ p.t0 = 3016 / 10 ∧ p.beta = 3950 ∧ p.rf = 8600 ∧ p.topology = .fixedLow ∧
    reasonOf p 4094 = .none := by decide +kernel

theorem witness_TemperatureRisesWithCode :
    let p := Config.standard.therm
    p.wellFormed = true ∧ p.topology = .fixedLow ∧ 0 < (1 : BitVec 12).toNat ∧
    (1 : BitVec 12).toNat < (2 : BitVec 12).toNat ∧ (2 : BitVec 12).toNat < 4095 ∧ 0 < realD p (realRes p 2) := by
  refine ⟨by decide +kernel, rfl, by decide, by decide, by decide, ?_⟩
  have hr : realRes Config.standard.therm 2 = 17599900 := by
    simp [realRes, Config.standard]; norm_num
  have hl : 0 ≤ Real.log ((17599900 : ℝ) / 8300) := Real.log_nonneg (by norm_num)
  rw [hr]
  simp only [realD, Config.standard]
  push_cast
  positivity

theorem witness_CalibrationPointExact :
    Config.standard.therm.wellFormed = true ∧ Config.standard.therm.t0 = 3016 / 10 := by decide +kernel

theorem witness_WorkedExampleByFormulas :
    let p := Config.standard.therm
    p.vs = 33 / 10 ∧ p.rf = 8600 ∧ p.topology = .fixedLow := by decide +kernel

/-- A conversion of code 0, which is done at once, and bounds that fit whatever the free function is. -/
theorem witness_DoneResultsAreAccurate_invalid :
    let s : State := stateOf (exec .thConvert (drawing [] [0]))
    (∃ epsV epsR epsT, Accurate s.cfg.therm epsV epsR epsT) ∧ s.th.ResultsAgree s.cfg ∧ s.th.done = true := by
  refine ⟨exists_accurate _ (by decide +kernel), ⟨?_, ?_, ?_, ?_, ?_, ?_, ?_, ?_, ?_, ?_⟩, ?_⟩ <;> decide +kernel

/-- The same of a valid code, 4094. -/
theorem witness_DoneResultsAreAccurate_valid :
    let s : State := stateOf (exec .thConvert (drawing [] [4094]))
    (∃ epsV epsR epsT, Accurate s.cfg.therm epsV epsR epsT) ∧ s.th.done = true ∧ s.th.invalid = false := by
  refine ⟨exists_accurate _ (by decide +kernel), by decide +kernel, by decide +kernel⟩

theorem witness_UnitsAreIndependent :
    (Instr.owReadTemp 0).target = .owCtrl ∧ (∃ t, exec (.owReadTemp 0) State.reset = .next t) ∧
    ∃ t, exec .thConvert State.reset = .next t := ⟨rfl, ⟨_, rfl⟩, ⟨_, rfl⟩⟩

theorem witness_OnlyTicksAdvanceTime :
    ∀ a ∈ [Action.tick, .reset, .poll 4 .word 1 0, .poll 4 .word 1 1, .read 0 .word, .write 0 .word 3,
      .failUnless 4 4], step (toDo [a]) = .next (stateOf (step (toDo [a]))) := by
  have h : ∀ a ∈ [Action.tick, .reset, .poll 4 .word 1 0, .poll 4 .word 1 1, .read 0 .word, .write 0 .word 3,
      .failUnless 4 4], isNext (step (toDo [a])) = true := by decide
  exact fun a ha => next_of_isNext (h a ha)

theorem witness_ConfigurationNeverChanges : ∃ t, step State.reset = .next t := ⟨_, rfl⟩

theorem witness_StepKeepsSchedule : State.reset.ow.OnSchedule State.reset.cfg.convWaitUs ∧
    (running 750000 .reset 0 550 []).OnSchedule 750000 ∧ ∃ t, step State.reset = .next t :=
  ⟨⟨rfl, by simp [State.reset, State.resetOf, Ow.reset], by simp [State.reset, State.resetOf, Ow.reset],
      by simp [State.reset, State.resetOf, Ow.reset], by simp [State.reset, State.resetOf, Ow.reset]⟩,
    ⟨rfl, by rintro _ ⟨⟩; decide, by rintro _ ⟨⟩; decide, by rintro _ ⟨⟩; decide, by rintro _ ⟨⟩; decide⟩, ⟨_, rfl⟩⟩

theorem witness_StepKeepsOwFlags : State.reset.ow.FlagsAgree ∧ ∃ t, step State.reset = .next t :=
  ⟨⟨by decide, by decide, by decide, by decide⟩, ⟨_, rfl⟩⟩

theorem witness_StepKeepsReleaseInvariant :
    State.reset.ow.ReleasedUnlessHeld ∧ (stateOf (exec (.owPullLow 0) State.reset)).ow.ReleasedUnlessHeld ∧
    (withOw (running 750000 .reset 0 959 [true])).ow.ReleasedUnlessHeld ∧
    (withOw (running 750000 .reset 0 959 [true])).ow.busy = true ∧
    (stateOf (step (withOw (running 750000 .reset 0 959 [true])))).ow.busy = false :=
  ⟨by unfold Ow.ReleasedUnlessHeld; decide, by unfold Ow.ReleasedUnlessHeld; decide,
    by unfold Ow.ReleasedUnlessHeld; decide, by decide, by decide⟩

theorem witness_StepKeepsThResults : State.reset.th.ResultsAgree State.reset.cfg ∧ ∃ t, step State.reset = .next t := by
  refine ⟨⟨?_, ?_, ?_, ?_, ?_, ?_, ?_, ?_, ?_, ?_⟩, ⟨_, rfl⟩⟩ <;> decide +kernel

end Sys2Proof.Tests
end

/-! SUPPORT. What a command and the timebase can answer, said once. -/

namespace Sys2Proof.Machine

/-! ## What a command can answer, by where it is sent (R110, R118) -/

/-- An OW command answers a state that differs in the OW unit alone. -/
theorem exec_owCtrl_next {i : Instr} {s t : State} (hi : i.target = .owCtrl) (h : exec i s = .next t) :
    ∃ u, t = { s with ow := u } := by
  have line {op d arg} (h : s.issueLine op d arg = .next t) : ∃ u, t = { s with ow := u } := by
    obtain ⟨-, rfl⟩ | ⟨-, rfl⟩ := State.issueLine_next h <;> exact ⟨_, rfl⟩
  have timed {op arg} (h : s.issueTimed op arg = .next t) : ∃ u, t = { s with ow := u } := by
    obtain ⟨-, rfl⟩ | ⟨-, rfl⟩ := State.issueTimed_next h <;> exact ⟨_, rfl⟩
  cases i with
  | owPullLow arg => exact line h
  | owRelease arg => exact line h
  | owReset arg => exact timed h
  | owWriteBit arg => exact timed h
  | owReadBit arg => exact timed h
  | owWriteByte arg => exact timed h
  | owReadByte arg => exact timed h
  | owReadTemp arg => exact timed h
  | thConvert => cases hi
  | skipRom => cases hi
  | startConversion => cases hi
  | readScratchpad => cases hi

/-- TH_CONVERT answers a state that differs in the TH unit and the ADC's draws alone. -/
theorem exec_thCtrl_next {i : Instr} {s t : State} (hi : i.target = .thCtrl) (h : exec i s = .next t) :
    ∃ th draws, t = { s with th := th, draws := draws } := by
  cases i with
  | thConvert =>
    obtain ⟨-, rfl⟩ | ⟨-, rfl⟩ := execThConvert_next h
    · exact ⟨_, s.draws, rfl⟩
    · exact ⟨_, _, rfl⟩
  | _ => cases hi

/-- A command sent to a register, hence every command of the host's, leaves the time and the build alone. -/
theorem exec_host_next {i : Instr} {s t : State} (hi : i.target ≠ .bus) (h : exec i s = .next t) :
    t.now = s.now ∧ t.cfg = s.cfg := by
  cases ht : i.target with
  | owCtrl => obtain ⟨u, rfl⟩ := exec_owCtrl_next ht h; exact ⟨rfl, rfl⟩
  | thCtrl => obtain ⟨th, draws, rfl⟩ := exec_thCtrl_next ht h; exact ⟨rfl, rfl⟩
  | bus => exact absurd ht hi

/-- Decoding answers commands of the given target only (R110). -/
theorem decode_target {t : Target} {b : List Byte} {i : Instr} (h : decode t b = .ok i) : i.target = t := by
  unfold decode at h
  split at h
  · unfold decodeOw at h
    simp only at h
    split at h <;> cases h <;> rfl
  · unfold decodeTh at h
    split at h <;> cases h
    rfl
  · unfold decodeBus at h
    split at h <;> cases h <;> rfl
  · cases h

/-! ## The timebase (R10, R153) -/

/-- A byte is on the line only while OW_READ_TEMP runs, in the phase that sends it (R205). -/
theorem Ow.sending_eq_some {w : Nat} {u : Ow} {v : Byte} {j : Nat} (h : u.sending w = some (v, j)) :
    u.busy = true ∧ u.op = some .readTemp ∧ readTempPhase w u.k = .sendByte v j := by
  unfold Ow.sending at h
  split at h
  · split at h
    · split at h
      · cases h
        exact ⟨‹_›, ‹_›, ‹_›⟩
      · cases h
    · cases h
  · cases h

/-- The direction after tick `j` of a byte, counted inside the byte, is the schedule's (R172, R205). -/
theorem dir_after_sendByte {w k : Nat} {v : Byte} {j : Nat} (h : readTempPhase w k = .sendByte v j) (arg : Byte)
    (samples : List Bool) :
    (if j + 1 < tByte then writeByteDir v (j + 1) else dir w .readTemp arg (k + 1) samples) =
      dir w .readTemp arg (k + 1) samples := by
  split
  · rename_i hj
    simp only [dir, sendByte_next h hj, Phase.dir]
  · rfl

/-- The sequencer's tick while it sends a byte is the OW unit's tick. -/
theorem Ow.sendTick_eq_tick {w : Nat} {u : Ow} {v : Byte} {j : Nat} (h : u.sending w = some (v, j)) (env : Bool) :
    u.sendTick w v j = u.tick w env := by
  obtain ⟨hb, ho, hp⟩ := Ow.sending_eq_some h
  have hs : isSample w .readTemp u.k u.samples = false := by simp only [isSample, hp, Phase.sampleAt]
  rw [Ow.tick_running hb ho, Ow.run_quiet hs (sendByte_not_last hp _), Ow.sendTick, dir_after_sendByte hp]

/-- A bus command on the line runs as one tick of the timebase (R118). -/
theorem State.busTick_sending {s : State} {v : Byte} {j : Nat} (h : s.ow.sending s.cfg.convWaitUs = some (v, j)) :
    s.busTick v = .next s.tick := by
  simp only [State.busTick, h, if_true, Ow.sendTick_eq_tick h (s.envAt 0)]
  rfl

/-- The timebase's action is one tick, whether or not a bus byte is on the line. -/
theorem State.timebase_eq (s : State) : s.timebase = .next s.tick := by
  cases h : s.ow.sending s.cfg.convWaitUs with
  | none => simp only [State.timebase, State.busFetch, h]
  | some vj =>
    obtain ⟨v, j⟩ := vj
    obtain ⟨-, -, hp⟩ := Ow.sending_eq_some h
    have ht := State.busTick_sending h
    obtain rfl | rfl | rfl := sendByte_one_of hp <;> simp only [State.timebase, State.busFetch, h] <;> exact ht

end Sys2Proof.Machine

/-! PROOFS. The whole machine: the build, time, and the independence of the units (00_scope R2, R10, R13). -/

namespace Sys2Proof.Machine

/-- Settles O53: the kinds of a step by `step_cases`; a tick and every command of the host's keep the build. -/
theorem configurationNeverChanges : Obligations.ConfigurationNeverChanges := by
  intro s t h
  obtain ⟨a, ht⟩ | rfl | ⟨w, rfl⟩ | ⟨tg, b, i, htg, hi, he⟩ | rfl | rfl | rfl := step_cases h
  · rw [State.timebase_eq] at ht
    cases ht
    rfl
  · rfl
  · rfl
  · exact (exec_host_next (decode_target hi ▸ htg) he).2
  · rfl
  · rfl
  · rfl

/-- A host write, whatever command it runs, takes no time (R21). -/
theorem State.hostWrite_now {s t : State} {addr : Nat} {width : AccessWidth} {w : Word}
    (h : s.hostWrite addr width w = .next t) : t.now = s.now := by
  obtain ⟨off, -, ⟨-, rfl⟩ | ⟨tg, htg, ⟨i, hi, he⟩ | ⟨-, rfl⟩⟩⟩ := State.hostWrite_next h
  · rfl
  · exact (exec_host_next (decode_target hi ▸ commandTarget_ne_bus htg) he).1
  · cases tg <;> rfl

theorem State.hostTest_now (s : State) (mask value : Word) : (s.hostTest mask value).now = s.now := by
  unfold State.hostTest
  split <;> rfl

/-- Settles O52, by the kind of the next action; the timebase's action is one tick (`State.timebase_eq`). -/
theorem onlyTicksAdvanceTime : Obligations.OnlyTicksAdvanceTime := by
  intro s t h
  unfold step at h
  cases ha : s.nextAction with
  | tick =>
    rw [ha, State.act, State.timebase_eq] at h
    cases h
    rfl
  | reset =>
    rw [ha, State.act] at h
    cases h
    rfl
  | read addr width =>
    rw [ha] at h
    obtain ⟨off, -, rfl⟩ := State.hostRead_next h
    rfl
  | write addr width w =>
    rw [ha] at h
    exact State.hostWrite_now (s := s.popped) h
  | poll addr width mask value =>
    rw [ha] at h
    obtain rfl | hp := State.hostPoll_next h
    · exact .inl rfl
    · rw [State.timebase_eq] at hp
      cases hp
      exact .inr rfl
  | failUnless mask value =>
    rw [ha, State.act] at h
    cases h
    exact State.hostTest_now _ mask value

/-- Neither unit's ticks read the other: whatever the TH unit holds, the OW unit runs the same (R239). -/
theorem State.ticks_ow_withTh (s : State) (h : Th) (n : Nat) :
    (({ s with th := h } : State).ticks n).ow = (s.ticks n).ow := by
  induction n generalizing s h with
  | zero => rfl
  | succ n ih => exact ih s.tick (h.tick s.cfg)

/-- Whatever the OW unit holds, the TH unit runs the same (R239). -/
theorem State.ticks_th_withOw (s : State) (u : Ow) (n : Nat) :
    (({ s with ow := u } : State).ticks n).th = (s.ticks n).th := by
  induction n generalizing s u with
  | zero => rfl
  | succ n ih => exact ih s.tick (u.tick s.cfg.convWaitUs (s.envAt 0))

/-- Settles O51: the frame of each unit's commands, and each unit's ticks from its own state alone. -/
theorem unitsAreIndependent : Obligations.UnitsAreIndependent := by
  refine ⟨fun i s t hi h => ?_, fun s t h => ?_, State.ticks_ow_withTh, State.ticks_th_withOw⟩
  · obtain ⟨u, rfl⟩ := exec_owCtrl_next hi h
    rfl
  · obtain ⟨th, draws, rfl⟩ := exec_thCtrl_next rfl h
    rfl

end Sys2Proof.Machine

/-! SUPPORT. Binary32 patterns field by field (R20), and exactness of sixteenths (R122, R204). -/

namespace Sys2Proof.Machine

/-! ## The fields of a binary32 pattern (R20) -/

/-- The binary32 pattern with sign `b`, exponent field `e` and fraction field `f`. -/
def f32Pattern (b : Bool) (e f : Nat) : Word := BitVec.ofNat 32 (b.toNat * 2 ^ 31 + e * 2 ^ 23 + f)

section
variable (b : Bool) {e f : Nat} (he : e < 256) (hf : f < 2 ^ 23)
include he hf

theorem f32Pattern_toNat : (f32Pattern b e f).toNat = b.toNat * 2 ^ 31 + e * 2 ^ 23 + f := by
  have hb : b.toNat ≤ 1 := Bool.toNat_le b
  rw [f32Pattern, BitVec.toNat_ofNat, Nat.mod_eq_of_lt (by omega)]

theorem f32Exp_pattern : f32Exp (f32Pattern b e f) = e := by
  rw [f32Exp, BitVec.extractLsb'_toNat, f32Pattern_toNat b he hf, Nat.shiftRight_eq_div_pow]
  omega

theorem f32Frac_pattern : f32Frac (f32Pattern b e f) = f := by
  rw [f32Frac, BitVec.extractLsb'_toNat, f32Pattern_toNat b he hf, Nat.shiftRight_eq_div_pow]
  omega

theorem f32Sign_pattern : (f32Pattern b e f).getLsbD 31 = b := by
  rw [BitVec.getLsbD, f32Pattern_toNat b he hf, Nat.testBit_eq_decide_div_mod_eq]
  cases b <;> simp only [Bool.toNat_true, Bool.toNat_false, decide_eq_true_eq, decide_eq_false_iff_not] <;> omega

/-- The value of a pattern with a nonzero exponent field: a sign, a leading one, the fraction (R20). -/
theorem f32Value_pattern (h0 : e ≠ 0) :
    f32Value (f32Pattern b e f) = (if b then -1 else 1) * ((((2 ^ 23 + f) * 2 ^ e : ℕ) : ℚ) / 2 ^ 150) := by
  rw [f32Value, f32Exp_pattern b he hf, f32Frac_pattern b he hf, f32Sign_pattern b he hf, if_neg h0, Rat.mkRat_eq_div,
    Nat.cast_pow, Nat.cast_ofNat]
  cases b
  · exact (one_mul _).symm
  · exact neg_eq_neg_one_mul _

end

/-! ## Sixteenths in binary32 (R122, R204) -/

theorem f32OfSixteenths_eq_pattern {n : Int} (hn : n ≠ 0) :
    f32OfSixteenths n =
      f32Pattern (decide (n < 0)) (123 + n.natAbs.log2) ((n.natAbs - 2 ^ n.natAbs.log2) * 2 ^ (23 - n.natAbs.log2)) := by
  rw [f32OfSixteenths, if_neg hn, f32Pattern]
  by_cases h : n < 0 <;> simp [h]

/-- The bits below the leading one of `m < 2 ^ 24` fit into the fraction field. -/
theorem f32_fraction_lt {m : Nat} (h0 : m ≠ 0) (hm : m < 2 ^ 24) : (m - 2 ^ m.log2) * 2 ^ (23 - m.log2) < 2 ^ 23 := by
  have he : m.log2 < 24 := (Nat.log2_lt h0).mpr hm
  have hlt : m < 2 ^ (m.log2 + 1) := Nat.lt_log2_self
  calc (m - 2 ^ m.log2) * 2 ^ (23 - m.log2) < 2 ^ m.log2 * 2 ^ (23 - m.log2) :=
        Nat.mul_lt_mul_of_pos_right (by rw [pow_succ] at hlt; omega) (by positivity)
    _ = 2 ^ 23 := by rw [← pow_add]; congr 1; omega

/-- With the leading one put back they are `m` again, scaled by the exponent field (R122). -/
theorem f32_significand_eq {m : Nat} (h0 : m ≠ 0) (hm : m < 2 ^ 24) :
    (2 ^ 23 + (m - 2 ^ m.log2) * 2 ^ (23 - m.log2)) * 2 ^ (123 + m.log2) = m * 2 ^ 146 := by
  have he : m.log2 < 24 := (Nat.log2_lt h0).mpr hm
  have hle : 2 ^ m.log2 ≤ m := Nat.log2_self_le h0
  have h23 : 2 ^ 23 = 2 ^ m.log2 * 2 ^ (23 - m.log2) := by rw [← pow_add]; congr 1; omega
  rw [h23, ← Nat.add_mul, Nat.add_sub_cancel' hle, Nat.mul_assoc, ← pow_add]
  congr 2
  omega

/-- Sixteenths of a number of at most 24 bits are exact (R20, R122). -/
theorem f32Value_f32OfSixteenths {n : Int} (hn : n.natAbs < 2 ^ 24) : f32Value (f32OfSixteenths n) = (n : ℚ) / 16 := by
  by_cases h0 : n = 0
  · subst h0
    decide +kernel
  have hm0 : n.natAbs ≠ 0 := Int.natAbs_ne_zero.mpr h0
  have he : n.natAbs.log2 < 24 := (Nat.log2_lt hm0).mpr hn
  rw [f32OfSixteenths_eq_pattern h0, f32Value_pattern _ (by omega) (f32_fraction_lt hm0 hn) (by omega),
    f32_significand_eq hm0 hn, Nat.cast_mul, Nat.cast_natAbs]
  rcases lt_or_ge n 0 with h | h
  · simp only [h, decide_true, if_true, abs_of_neg h]
    push_cast
    ring
  · simp only [not_lt.mpr h, decide_false, Bool.false_eq_true, if_false, abs_of_nonneg h]
    push_cast
    ring

theorem f32Value_tempBits (raw : BitVec 16) : f32Value (tempBits raw) = (raw.toInt : ℚ) / 16 :=
  f32Value_f32OfSixteenths (by have := raw.toInt_lt; have := raw.le_toInt; omega)

theorem f32Value_sentinel : f32Value sentinel = -1000 := by decide +kernel

end Sys2Proof.Machine

/-! PROOFS. The sentinel (R20, R207). -/

namespace Sys2Proof.Machine

/-- Settles O39: the decoding of a scratchpad word is exact, so that a word with the sentinel's pattern is −16000
sixteenths. -/
theorem sentinelHasOneAmbiguousWord : Obligations.SentinelHasOneAmbiguousWord := by
  refine ⟨f32Value_sentinel, fun raw => ⟨fun h => ?_, ?_⟩⟩
  · have hv := f32Value_tempBits raw
    rw [h, f32Value_sentinel] at hv
    have hi : raw.toInt = -16000 := by
      have : (raw.toInt : ℚ) = -16000 := by linarith
      exact_mod_cast this
    exact BitVec.eq_of_toInt_eq hi
  · rintro rfl
    decide

end Sys2Proof.Machine

/-! SUPPORT. Which reason a code has (R235), and bounds for the fixed-low divider. -/

namespace Sys2Proof.Machine

/-! ## The reason of a code (R235) -/

theorem reasonOf_eq_zeroVoltage_iff (p : ThermParams) (c : BitVec 12) :
    reasonOf p c = .zeroVoltage ↔ c = zeroDivisorCode p.topology := by
  unfold reasonOf
  split_ifs <;> simp_all

theorem reasonOf_eq_nonpositiveResistance_iff (p : ThermParams) (c : BitVec 12) :
    reasonOf p c = .nonpositiveResistance ↔ c ≠ zeroDivisorCode p.topology ∧ resistance p c ≤ 0 := by
  unfold reasonOf
  split_ifs <;> simp_all

theorem reasonOf_eq_temperatureOutOfRange_iff (p : ThermParams) (c : BitVec 12) :
    reasonOf p c = .temperatureOutOfRange ↔
      c ≠ zeroDivisorCode p.topology ∧ 0 < resistance p c ∧ outOfRange p c = true := by
  unfold reasonOf
  split_ifs <;> simp_all

theorem reasonOf_eq_none_iff (p : ThermParams) (c : BitVec 12) :
    reasonOf p c = .none ↔
      c ≠ zeroDivisorCode p.topology ∧ 0 < resistance p c ∧ outOfRange p c = false := by
  unfold reasonOf
  split_ifs <;> simp_all

/-- The divider with the fixed resistor low: besides the code of its zero divisor, the full-scale code alone has no
positive resistance (R233, R235). -/
theorem resistance_nonpos_iff_of_fixedLow {p : ThermParams} (ht : p.topology = .fixedLow) (hrf : 0 < p.rf)
    {c : BitVec 12} (hc : c ≠ 0) : resistance p c ≤ 0 ↔ c = 4095 := by
  have h0 : (0 : ℚ) < c.toNat := by
    have : c.toNat ≠ 0 := fun h => hc (BitVec.eq_of_toNat_eq h)
    exact_mod_cast Nat.pos_of_ne_zero this
  have hle : c.toNat ≤ 4095 := Nat.le_of_lt_succ c.isLt
  have h4095 : c = 4095 ↔ c.toNat = 4095 := BitVec.toNat_inj.symm
  simp only [resistance, ht, Config.maxCode]
  rw [div_le_iff₀ h0, zero_mul, ← not_lt, mul_pos_iff_of_pos_left hrf, sub_pos, h4095]
  norm_cast
  omega

/-- The smallest positive resistance of the divider with the fixed resistor low is that of the code 4094. -/
theorem le_resistance_of_fixedLow {p : ThermParams} (ht : p.topology = .fixedLow) (hrf : 0 < p.rf) {c : BitVec 12}
    (hc : c ≠ 0) (hr : 0 < resistance p c) : p.rf / 4094 ≤ resistance p c := by
  have h0 : c.toNat ≠ 0 := fun h => hc (BitVec.eq_of_toNat_eq h)
  have hne : c.toNat ≠ 4095 := fun h =>
    absurd ((resistance_nonpos_iff_of_fixedLow ht hrf hc).mpr (BitVec.eq_of_toNat_eq h)) (not_le.mpr hr)
  have hlt : c.toNat < 4096 := c.isLt
  have hpos : (0 : ℚ) < c.toNat := by exact_mod_cast Nat.pos_of_ne_zero h0
  have hle : (c.toNat : ℚ) ≤ 4094 := by exact_mod_cast (by omega : c.toNat ≤ 4094)
  simp only [resistance, ht, Config.maxCode]
  rw [div_le_div_iff₀ (by norm_num) hpos, mul_assoc]
  exact mul_le_mul_of_nonneg_left (by push_cast; linarith) hrf.le

/-- For positive parameters and a positive resistance the test of the range decides `D ≤ 0` on the reals (R234, R235). -/
theorem outOfRange_iff_realD_nonpos {p : ThermParams} {c : BitVec 12} (hr : 0 < p.rRef) (ht : 0 < p.t0)
    (hb : 0 < p.beta) (hc : 0 < resistance p c) : outOfRange p c = true ↔ realD p (realRes p c) ≤ 0 := by
  rw [outOfRange_iff (div_pos hb ht), ← realRes_cast]
  have hr' : (0 : ℝ) < p.rRef := by exact_mod_cast hr
  have ht' : (0 : ℝ) < p.t0 := by exact_mod_cast ht
  have hb' : (0 : ℝ) < p.beta := by exact_mod_cast hb
  have hc' : (0 : ℝ) < (resistance p c : ℚ) := by exact_mod_cast hc
  have hlog : Real.log ((p.rRef : ℝ) / (resistance p c : ℚ)) = -Real.log ((resistance p c : ℚ) / (p.rRef : ℝ)) := by
    rw [← Real.log_inv, inv_div]
  have hD : realD p (resistance p c : ℚ) =
      ((p.beta : ℝ) / p.t0 - Real.log ((p.rRef : ℝ) / (resistance p c : ℚ))) / p.beta := by
    rw [realD, hlog]
    field_simp
    ring
  push_cast
  rw [← Real.le_log_iff_exp_le (div_pos hr' hc'), hD, div_le_iff₀ hb', zero_mul, sub_nonpos]

theorem two_pow_le_exp {n : ℕ} {x : ℝ} (h : n ≤ x) : 2 ^ n ≤ Real.exp x := by
  have h2 : (2 : ℝ) ≤ Real.exp 1 := by linarith [Real.add_one_le_exp (1 : ℝ)]
  calc (2 : ℝ) ^ n ≤ Real.exp 1 ^ n := pow_le_pow_left₀ (by norm_num) h2 n
    _ = Real.exp n := by rw [← Real.exp_nat_mul, mul_one]
    _ ≤ Real.exp x := Real.exp_le_exp.mpr h

/-- A code is in range where `R_REF / R` stays below a power of two that `exp (BETA / T0)` reaches. -/
theorem outOfRange_eq_false {p : ThermParams} {c : BitVec 12} {n : ℕ} (hx : 0 < p.beta / p.t0)
    (hn : n ≤ p.beta / p.t0) (hr : p.rRef / resistance p c < 2 ^ n) : outOfRange p c = false := by
  rw [← Bool.not_eq_true, outOfRange_iff hx, not_le]
  calc ((p.rRef / resistance p c : ℚ) : ℝ) < 2 ^ n := by exact_mod_cast hr
    _ ≤ Real.exp ((p.beta / p.t0 : ℚ) : ℝ) := two_pow_le_exp (by exact_mod_cast hn)

end Sys2Proof.Machine

/-! PROOFS. The default thermistor parameters (R13, R242). -/

namespace Sys2Proof.Machine

/-- Settles O46: at the defaults no resistance is below 8600/4094, so `R_REF / R` stays below `2 ^ 13`, while
`BETA / T0` exceeds 13. -/
theorem defaultsRejectTwoCodes : Obligations.DefaultsRejectTwoCodes := by
  intro p hrRef ht0 hbeta hrf htop c
  have hrf0 : 0 < p.rf := by rw [hrf]; norm_num
  have hzero : zeroDivisorCode p.topology = 0#12 := by rw [htop]; rfl
  have hrange (hc : c ≠ 0) (hr : 0 < resistance p c) : outOfRange p c = false := by
    have hmin := le_resistance_of_fixedLow htop hrf0 hc hr
    refine outOfRange_eq_false (n := 13) ?_ ?_ ?_
    · rw [hbeta, ht0]; norm_num
    · rw [hbeta, ht0]; norm_num
    · rw [hrf] at hmin
      rw [hrRef, div_lt_iff₀ hr]
      linarith
  refine ⟨by rw [reasonOf_eq_zeroVoltage_iff, hzero], ?_, fun h => ?_, fun h => ?_⟩
  · rw [reasonOf_eq_nonpositiveResistance_iff, hzero]
    refine ⟨fun ⟨hc, hr⟩ => (resistance_nonpos_iff_of_fixedLow htop hrf0 hc).mp hr, ?_⟩
    rintro rfl
    exact ⟨by decide, (resistance_nonpos_iff_of_fixedLow htop hrf0 (by decide)).mpr rfl⟩
  · rw [reasonOf_eq_temperatureOutOfRange_iff, hzero] at h
    obtain ⟨hc, hr, hout⟩ := h
    exact absurd hout (by simp [hrange hc hr])
  · obtain ⟨-, hr, hout⟩ := (reasonOf_eq_none_iff p c).mp h
    have hD := outOfRange_iff_realD_nonpos (p := p) (by rw [hrRef]; norm_num) (by rw [ht0]; norm_num)
      (by rw [hbeta]; norm_num) hr
    exact not_le.mp fun hle => absurd (hD.mpr hle) (by simp [hout])

end Sys2Proof.Machine

/-! SUPPORT. What one step can do to each unit, said once for the invariants (R7, R151, R153, R155, R230, R237). -/

namespace Sys2Proof.Machine

/-! ## The OW unit -/

/-- The samples after the coming tick of a unit that runs `op` (R153). -/
def Ow.nextSamples (w : Nat) (op : OwOp) (env : Bool) (u : Ow) : List Bool :=
  takeSample w op u.k (lineLevel u.dir env) u.samples

/-- The unit one offset on, with what the coming tick samples (R153). -/
def Ow.moved (w : Nat) (op : OwOp) (env : Bool) (u : Ow) : Ow :=
  { u with samples := u.nextSamples w op env, k := u.k + 1 }

/-- The unit after a tick of `op` that is not its last (R153). -/
def Ow.advance (w : Nat) (op : OwOp) (env : Bool) (u : Ow) : Ow :=
  { u.moved w op env with dir := Machine.dir w op u.arg (u.k + 1) (u.nextSamples w op env) }

theorem Ow.run_eq (w : Nat) (op : OwOp) (env : Bool) (u : Ow) : u.run w op env =
    if u.k + 1 = duration w op (u.nextSamples w op env) then (u.moved w op env).complete op else u.advance w op env :=
  rfl

/-- What one step can do to the OW unit: the two outcomes of a tick (R153, R155), those of a write to OW_CTRL
(R40, R151), reset, or nothing. -/
inductive Ow.Change (w : Nat) (u : Ow) : Ow → Prop
  | keep : Change w u u
  | advance (op : OwOp) (env : Bool) (hb : u.busy = true) (ho : u.op = some op)
      (hd : u.k + 1 ≠ duration w op (u.nextSamples w op env)) : Change w u (u.advance w op env)
  | complete (op : OwOp) (env : Bool) (hb : u.busy = true) : Change w u ((u.moved w op env).complete op)
  | reject : Change w u u.reject
  | pullLow (arg : Byte) (hb : u.busy = false) : Change w u (u.acceptLine 1 .output arg)
  | release (arg : Byte) (hb : u.busy = false) : Change w u (u.acceptLine 2 .input arg)
  | accept (op : OwOp) (arg : Byte) (hb : u.busy = false) : Change w u (u.acceptTimed w op arg)
  | reset : Change w u Ow.reset

theorem Ow.change_tick (w : Nat) (env : Bool) (u : Ow) : Ow.Change w u (u.tick w env) := by
  cases hb : u.busy with
  | false => rw [Ow.tick_idle hb]; exact .keep
  | true =>
    cases ho : u.op with
    | none => rw [Ow.tick, if_pos hb, ho]; exact .keep
    | some op =>
      rw [Ow.tick_running hb ho, Ow.run_eq]
      split
      · exact .complete op env hb
      · exact .advance op env hb ho ‹_›

/-- A command sent to OW_CTRL is one of the two line commands or a timed command (R112). -/
theorem exec_owCtrl_cases {i : Instr} (hi : i.target = .owCtrl) :
    (∃ arg, exec i = State.issueLine 1 .output arg) ∨ (∃ arg, exec i = State.issueLine 2 .input arg) ∨
      ∃ op arg, exec i = State.issueTimed op arg := by
  cases i with
  | owPullLow arg => exact .inl ⟨arg, rfl⟩
  | owRelease arg => exact .inr (.inl ⟨arg, rfl⟩)
  | owReset arg => exact .inr (.inr ⟨.reset, arg, rfl⟩)
  | owWriteBit arg => exact .inr (.inr ⟨.writeBit, arg, rfl⟩)
  | owReadBit arg => exact .inr (.inr ⟨.readBit, arg, rfl⟩)
  | owWriteByte arg => exact .inr (.inr ⟨.writeByte, arg, rfl⟩)
  | owReadByte arg => exact .inr (.inr ⟨.readByte, arg, rfl⟩)
  | owReadTemp arg => exact .inr (.inr ⟨.readTemp, arg, rfl⟩)
  | thConvert => cases hi
  | skipRom => cases hi
  | startConversion => cases hi
  | readScratchpad => cases hi

theorem exec_owCtrl_change {i : Instr} {s t : State} (hi : i.target = .owCtrl) (h : exec i s = .next t) :
    Ow.Change s.cfg.convWaitUs s.ow t.ow := by
  obtain ⟨arg, he⟩ | ⟨arg, he⟩ | ⟨op, arg, he⟩ := exec_owCtrl_cases hi <;> rw [he] at h
  · obtain ⟨-, rfl⟩ | ⟨hb, rfl⟩ := State.issueLine_next h
    · exact .reject
    · exact .pullLow arg hb
  · obtain ⟨-, rfl⟩ | ⟨hb, rfl⟩ := State.issueLine_next h
    · exact .reject
    · exact .release arg hb
  · obtain ⟨-, rfl⟩ | ⟨hb, rfl⟩ := State.issueTimed_next h
    · exact .reject
    · exact .accept op arg hb

/-! ## The TH unit -/

/-- What one step can do to the TH unit: the two outcomes of a tick and of a start (R230, R237), reset, or nothing. -/
inductive Th.Change (c : Config) (h : Th) : Th → Prop
  | keep : Change c h h
  | wait (hb : h.busy = true) (hk : h.k + 1 ≠ c.thLatency) : Change c h { h with k := h.k + 1 }
  | complete : Change c h (({ h with k := h.k + 1 } : Th).complete c.therm)
  | reject : Change c h h.reject
  | accept (code : BitVec 12) (hb : h.busy = false) : Change c h (h.accept c code)
  | reset : Change c h Th.reset

theorem Th.change_tick (c : Config) (h : Th) : Th.Change c h (h.tick c) := by
  obtain ⟨-, ht⟩ | ⟨hb, hk, ht⟩ | ⟨-, -, ht⟩ := Th.tick_cases c h <;> rw [ht]
  · exact .keep
  · exact .wait hb hk
  · exact .complete

theorem exec_thConvert_change {s t : State} (h : exec .thConvert s = .next t) : Th.Change s.cfg s.th t.th := by
  obtain ⟨-, rfl⟩ | ⟨hb, rfl⟩ := execThConvert_next h
  · exact .reject
  · exact .accept _ hb

/-! ## The machine -/

/-- A command sent to a register changes its own unit and leaves the other (R239). -/
theorem exec_host_change {i : Instr} {s t : State} (hi : i.target ≠ .bus) (h : exec i s = .next t) :
    Ow.Change s.cfg.convWaitUs s.ow t.ow ∧ Th.Change s.cfg s.th t.th := by
  cases ht : i.target with
  | owCtrl =>
    have hth : t.th = s.th := unitsAreIndependent.1 i s t ht h
    exact ⟨exec_owCtrl_change ht h, hth ▸ .keep⟩
  | thCtrl =>
    obtain rfl : i = .thConvert := by cases i <;> cases ht; rfl
    have how : t.ow = s.ow := unitsAreIndependent.2.1 s t h
    exact ⟨how ▸ .keep, exec_thConvert_change h⟩
  | bus => exact absurd ht hi

theorem step_change {s t : State} (h : step s = .next t) :
    Ow.Change s.cfg.convWaitUs s.ow t.ow ∧ Th.Change s.cfg s.th t.th := by
  obtain ⟨a, ht⟩ | rfl | ⟨w, rfl⟩ | ⟨tg, b, i, htg, hi, he⟩ | rfl | rfl | rfl := step_cases h
  · rw [State.timebase_eq] at ht
    cases ht
    exact ⟨Ow.change_tick _ _ _, Th.change_tick _ _⟩
  · exact ⟨.keep, .keep⟩
  · exact ⟨.keep, .keep⟩
  · exact exec_host_change (s := s.popped) (decode_target hi ▸ htg) he
  · exact ⟨.reject, .keep⟩
  · exact ⟨.keep, .keep⟩
  · exact ⟨.reset, .reset⟩

end Sys2Proof.Machine

/-! PROOFS. A command in progress stays on its schedule (R43, R44, R152, R153). -/

namespace Sys2Proof.Machine

/-! ## Samples and duration along a schedule -/

theorem takeSample_length (w : Nat) (op : OwOp) (k : Nat) (level : Bool) (ss : List Bool) :
    (takeSample w op k level ss).length = ss.length + (isSample w op k ss).toNat := by
  unfold takeSample
  split <;> simp_all

/-- The phase of OW_READ_TEMP samples at 550 of either reset slot and at 15 of each read slot (R205). -/
theorem readTempPhase_sampleAt_iff (w k : Nat) : (readTempPhase w k).sampleAt = true ↔
    k = 550 ∨ k = 2080 + w + 550 ∨ 2080 + w + 2080 ≤ k ∧ k < 2080 + w + 3200 ∧ (k - (2080 + w + 2080)) % 70 = 15 := by
  rw [readTempPhase_eq]
  split_ifs <;>
    simp only [Phase.sampleAt, resetSampleAt_iff, readByteSampleAt_iff, Bool.false_eq_true, false_iff] <;> omega

theorem toNat_eq_ite {b : Bool} {P : Prop} [Decidable P] (h : b = true ↔ P) : b.toNat = if P then 1 else 0 := by
  cases b <;> simp_all

theorem samplesTaken_zero (w : Nat) (op : OwOp) : samplesTaken w op 0 = 0 := by
  cases op <;> rfl

/-- No command lasts longer than a successful OW_READ_TEMP, and none is decided before 960 (R205). -/
theorem duration_readTemp_bounds (w : Nat) (ss : List Bool) :
    960 ≤ duration w .readTemp ss ∧ duration w .readTemp ss ≤ 2080 + w + 3200 := by
  rw [duration_readTemp]
  split_ifs <;> omega

/-- Each tick before the end adds the sample it takes to the count (R153, R205). -/
theorem samplesTaken_succ {w : Nat} {op : OwOp} {k : Nat} {ss : List Bool} (hk : k < duration w op ss) :
    samplesTaken w op (k + 1) = samplesTaken w op k + (isSample w op k ss).toNat := by
  cases op with
  | reset =>
    simp only [samplesTaken, isSample, toNat_eq_ite (resetSampleAt_iff k)]
    split_ifs <;> omega
  | writeBit => rfl
  | readBit =>
    simp only [samplesTaken, isSample, toNat_eq_ite (readSampleAt_iff k)]
    split_ifs <;> omega
  | writeByte => rfl
  | readByte =>
    simp only [samplesTaken, isSample, toNat_eq_ite (readByteSampleAt_iff k)]
    split_ifs <;> omega
  | readTemp =>
    have hd : k < 2080 + w + 3200 := hk.trans_le (duration_readTemp_bounds w ss).2
    simp only [samplesTaken, isSample, secondReset_eq, toNat_eq_ite (readTempPhase_sampleAt_iff w k)]
    split_ifs <;> omega

/-- A sample that decides the end of OW_READ_TEMP is taken before that end; every later one decides nothing (R205). -/
theorem succ_le_duration_append {w k : Nat} {ss : List Bool} (b : Bool) (hk : k < duration w .readTemp ss)
    (hl : ss.length = samplesTaken w .readTemp k) : k + 1 ≤ duration w .readTemp (ss ++ [b]) := by
  simp only [samplesTaken, secondReset_eq] at hl
  match ss with
  | [] =>
    have h550 : k ≤ 550 := by simp only [List.length_nil] at hl; split_ifs at hl <;> omega
    have := (duration_readTemp_bounds w ([] ++ [b])).1
    omega
  | [s1] =>
    have hB : k ≤ 2080 + w + 550 := by simp only [List.length_singleton] at hl; split_ifs at hl <;> omega
    cases s1 with
    | true => exact hk
    | false =>
      have : 2080 + w + 960 ≤ duration w .readTemp ([false] ++ [b]) := by
        rw [duration_readTemp]
        cases b <;> simp
      omega
  | s1 :: s2 :: _ => exact hk

/-- The end is not passed: a tick before it reaches it at most (R153, R155). -/
theorem succ_le_duration_takeSample {w : Nat} {op : OwOp} {k : Nat} {ss : List Bool} (level : Bool)
    (hk : k < duration w op ss) (hl : ss.length = samplesTaken w op k) :
    k + 1 ≤ duration w op (takeSample w op k level ss) := by
  unfold takeSample
  split
  · cases op with
    | readTemp => exact succ_le_duration_append level hk hl
    | _ => exact hk
  · exact hk

theorem duration_pos (w : Nat) (op : OwOp) (ss : List Bool) : 0 < duration w op ss := by
  cases op with
  | readTemp => exact Nat.lt_of_lt_of_le (by decide) (duration_readTemp_bounds w ss).1
  | _ => exact Nat.lt_of_sub_eq_succ rfl

/-! ## The invariant -/

/-- With no command in progress there is nothing to keep. -/
theorem Ow.OnSchedule.of_idle {w : Nat} {u : Ow} (hb : u.busy = false) (ho : u.op = none) : u.OnSchedule w := by
  constructor <;> simp [hb, ho]

theorem Ow.OnSchedule.op_eq_none {w : Nat} {u : Ow} (h : u.OnSchedule w) (hb : u.busy = false) : u.op = none := by
  have := h.busy_iff
  simp_all

/-- A tick before the end leaves the command on its schedule (R152, R153). -/
theorem Ow.OnSchedule.advance {w : Nat} {u : Ow} {op : OwOp} (env : Bool) (h : u.OnSchedule w) (ho : u.op = some op)
    (hd : u.k + 1 ≠ duration w op (u.nextSamples w op env)) : (u.advance w op env).OnSchedule w := by
  have hk := h.before_end op ho
  have hl := h.sampled op ho
  have hop {op' : OwOp} (h' : u.op = some op') : op' = op := Option.some.inj (h'.symm.trans ho)
  refine ⟨h.busy_iff, fun op' h' => ?_, fun op' h' => ?_, fun op' h' => ?_, h.shown⟩ <;> obtain rfl := hop h'
  · exact Nat.lt_of_le_of_ne (succ_le_duration_takeSample _ hk hl) hd
  · rfl
  · exact (takeSample_length ..).trans (by rw [hl]; exact (samplesTaken_succ hk).symm)

/-- A command just accepted is at the start of its schedule (R151). -/
theorem Ow.OnSchedule.acceptTimed (w : Nat) (op : OwOp) (arg : Byte) (u : Ow) :
    (u.acceptTimed w op arg).OnSchedule w := by
  constructor
  case busy_iff => rfl
  all_goals
    intro op' h'
    obtain rfl : op = op' := Option.some.inj h'
  case before_end => exact duration_pos w op []
  case on_line => rfl
  case sampled => exact (samplesTaken_zero w op).symm
  case shown => exact ⟨rfl, rfl⟩

theorem Ow.OnSchedule.reset (w : Nat) : Ow.reset.OnSchedule w := .of_idle rfl rfl

theorem Ow.OnSchedule.change {w : Nat} {u u' : Ow} (h : u.OnSchedule w) (hc : Ow.Change w u u') : u'.OnSchedule w := by
  cases hc with
  | keep => exact h
  | advance op env hb ho hd => exact h.advance env ho hd
  | complete => exact .of_idle rfl rfl
  | reject => exact ⟨h.busy_iff, h.before_end, h.on_line, h.sampled, h.shown⟩
  | pullLow arg hb => exact .of_idle hb (h.op_eq_none hb)
  | release arg hb => exact .of_idle hb (h.op_eq_none hb)
  | accept op arg => exact .acceptTimed w op arg u
  | reset => exact .reset w

/-- Settles O55: what a step can do to the OW unit (`step_change`), and each of it keeps the schedule. -/
theorem stepKeepsSchedule : Obligations.StepKeepsSchedule := by
  intro s t h ht
  rw [configurationNeverChanges s t ht]
  exact h.change (step_change ht).1

end Sys2Proof.Machine

/-! PROOFS. The TH registers agree with the latched code (R47–R51, R236, R237). -/

namespace Sys2Proof.Machine

/-! ## Finite results (R236 N3) -/

/-- Where the pattern is infinity or NaN, clearing one bit of its exponent field makes it a number. -/
theorem f32Finite_makeFinite (w : Word) : f32Finite (makeFinite w) = true := by
  unfold makeFinite
  split
  · assumption
  · have h0 : (w &&& 0xFF7FFFFF).getLsbD 23 = false := by simp
    have h : (f32Exp (w &&& 0xFF7FFFFF)).testBit 0 = false := by
      rw [← h0, f32Exp, BitVec.testBit_toNat, BitVec.getLsbD_extractLsb']
      rfl
    rw [f32Finite, bne_iff_ne]
    intro he
    rw [he] at h
    exact absurd h (by decide)

theorem thermNumerics_volt_finite (p : ThermParams) (c : BitVec 12) : f32Finite (thermNumerics p c).volt = true := by
  simp only [thermNumerics]
  split
  · decide
  · exact f32Finite_makeFinite _

theorem thermNumerics_res_finite (p : ThermParams) (c : BitVec 12) : f32Finite (thermNumerics p c).res = true :=
  f32Finite_makeFinite _

theorem thermNumerics_tempC_finite (p : ThermParams) (c : BitVec 12) : f32Finite (thermNumerics p c).tempC = true :=
  f32Finite_makeFinite _

/-! ## The invariant -/

/-- A completion writes the results of the latched code; what it leaves in place was finite before (R237). -/
theorem Th.ResultsAgree.complete (c : Config) {h : Th} (hres : f32Finite h.res = true)
    (htemp : f32Finite h.tempC = true) : (h.complete c.therm).ResultsAgree c where
  not_busy_and_done := by simp
  reason_iff := rfl
  before_end := by simp
  volt_finite := thermNumerics_volt_finite ..
  res_finite := by
    rw [Th.complete_res]
    split
    · exact thermNumerics_res_finite ..
    · exact hres
  tempC_finite := by
    rw [Th.complete_tempC]
    split
    · exact thermNumerics_tempC_finite ..
    · exact htemp
  done_reason _ := rfl
  done_volt _ := rfl
  done_res _ hr := if_pos hr
  done_tempC _ hr := if_pos hr

/-- A conversion that has not reached its end goes on waiting (R230). -/
theorem Th.ResultsAgree.wait {c : Config} {h : Th} (ha : h.ResultsAgree c) (hb : h.busy = true)
    (hk : h.k + 1 ≠ c.thLatency) : Th.ResultsAgree c { h with k := h.k + 1 } :=
  { ha with before_end := fun _ => Nat.lt_of_le_of_ne (ha.before_end hb) hk }

/-- An accepted conversion completes at once or waits, with DONE cleared and nothing but the code latched (R230). -/
theorem Th.ResultsAgree.accept {c : Config} {h : Th} (ha : h.ResultsAgree c) (code : BitVec 12) :
    (h.accept c code).ResultsAgree c := by
  obtain ⟨-, ht⟩ | ⟨hl, ht⟩ := Th.accept_cases c code h <;> rw [ht]
  · exact .complete c ha.res_finite ha.tempC_finite
  · exact {
      not_busy_and_done := by simp
      reason_iff := rfl
      before_end := fun _ => hl
      volt_finite := ha.volt_finite
      res_finite := ha.res_finite
      tempC_finite := ha.tempC_finite
      done_reason := by simp
      done_volt := by simp
      done_res := by simp
      done_tempC := by simp }

theorem Th.ResultsAgree.reset (c : Config) : Th.reset.ResultsAgree c := by
  constructor
  case volt_finite | res_finite | tempC_finite => decide
  all_goals simp [Th.reset]

theorem Th.ResultsAgree.change {c : Config} {h h' : Th} (ha : h.ResultsAgree c) (hc : Th.Change c h h') :
    h'.ResultsAgree c := by
  cases hc with
  | keep => exact ha
  | wait hb hk => exact ha.wait hb hk
  | complete => exact .complete c ha.res_finite ha.tempC_finite
  | reject => exact { ha with }
  | accept code => exact ha.accept code
  | reset => exact .reset c

/-- Settles O58: what a step can do to the TH unit (`step_change`), and each of it keeps the agreement. -/
theorem stepKeepsThResults : Obligations.StepKeepsThResults := by
  intro s t h ht
  rw [configurationNeverChanges s t ht]
  exact h.change (step_change ht).2

end Sys2Proof.Machine

/-! PROOFS. The OW flags and registers (R35, R36, R38, R155, R202) and the release invariant (R42). -/

namespace Sys2Proof.Machine

/-! ## What a completion writes (R155) -/

theorem Ow.results_ctrlOp (op : OwOp) (ss : List Bool) (u : Ow) : (u.results op ss).ctrlOp = u.ctrlOp := by
  cases op with
  | readTemp => simp only [Ow.results, Ow.readTempResults]; split <;> rfl
  | _ => rfl

/-- NOPRES is set by OW_READ_TEMP alone, together with the sentinel (R202). -/
theorem Ow.results_noPres {op : OwOp} {ss : List Bool} {u : Ow} (hu : u.noPres = false)
    (h : (u.results op ss).noPres = true) :
    (u.results op ss).present = false ∧ (u.results op ss).tempC = sentinel := by
  cases op with
  | readTemp =>
    simp only [Ow.results, Ow.readTempResults] at h ⊢
    split at h
    · rename_i hs
      simp only [if_pos hs, and_self]
    · exact absurd h (by simp [hu])
  | _ => exact absurd h (by simp [Ow.results, hu])

/-- OW_TEMP_RAW holds a sign-extended word (R38). -/
def IsSext (w : Word) : Prop := w = sext32 (w.setWidth 16)

theorem isSext_sext32 (v : BitVec 16) : IsSext (sext32 v) := by
  unfold IsSext sext32
  congr 1
  ext i hi
  rw [BitVec.getElem_setWidth, BitVec.getLsbD_signExtend, if_pos hi, BitVec.getLsbD_eq_getElem hi,
    decide_eq_true (by omega), Bool.true_and]

theorem Ow.results_tempRaw_isSext {op : OwOp} {ss : List Bool} {u : Ow} (h : IsSext u.tempRaw) :
    IsSext (u.results op ss).tempRaw := by
  cases op with
  | readTemp =>
    simp only [Ow.results, Ow.readTempResults]
    split
    · exact h
    · exact isSext_sext32 _
  | _ => exact h

/-! ## The flags -/

/-- While BUSY, DONE and so NOPRES are clear (R36). -/
theorem Ow.FlagsAgree.noPres_of_busy {u : Ow} (h : u.FlagsAgree) (hb : u.busy = true) : u.noPres = false := by
  by_contra hn
  exact h.not_busy_and_done ⟨hb, (h.no_presence (by simpa using hn)).1⟩

theorem Ow.FlagsAgree.complete {u : Ow} (op : OwOp) (hn : u.noPres = false) (hr : IsSext u.tempRaw)
    (hop : u.ctrlOp.toNat ≤ 8) : (u.complete op).FlagsAgree where
  not_busy_and_done := by simp [Ow.complete]
  no_presence h := ⟨rfl, Ow.results_noPres hn h⟩
  raw_extended := Ow.results_tempRaw_isSext hr
  legal_op := by rwa [Ow.complete, Ow.completeFlags_ctrlOp, Ow.results_ctrlOp]

/-- An accepted command clears NOPRES and leaves OW_TEMP_RAW (R151). -/
theorem Ow.FlagsAgree.acceptLine {u : Ow} (h : u.FlagsAgree) (hb : u.busy = false) {op : BitVec 4}
    (hop : op.toNat ≤ 8) (d : Direction) (arg : Byte) : (u.acceptLine op d arg).FlagsAgree :=
  ⟨by simp [hb], by simp, h.raw_extended, hop⟩

theorem OwOp.code_toNat_le (op : OwOp) : op.code.toNat ≤ 8 := by cases op <;> decide

theorem Ow.FlagsAgree.acceptTimed {u : Ow} (h : u.FlagsAgree) (w : Nat) (op : OwOp) (arg : Byte) :
    (u.acceptTimed w op arg).FlagsAgree :=
  ⟨by simp, by simp, h.raw_extended, op.code_toNat_le⟩

theorem Ow.FlagsAgree.reset : Ow.reset.FlagsAgree := by
  constructor <;> decide

theorem Ow.FlagsAgree.change {w : Nat} {u u' : Ow} (h : u.FlagsAgree) (hc : Ow.Change w u u') : u'.FlagsAgree := by
  cases hc with
  | keep => exact h
  | advance => exact ⟨h.not_busy_and_done, h.no_presence, h.raw_extended, h.legal_op⟩
  | complete op env hb => exact .complete op (h.noPres_of_busy hb) h.raw_extended h.legal_op
  | reject => exact { h with }
  | pullLow arg hb => exact h.acceptLine hb (by decide) _ arg
  | release arg hb => exact h.acceptLine hb (by decide) _ arg
  | accept op arg => exact h.acceptTimed w op arg
  | reset => exact .reset

/-- Settles O56: what a step can do to the OW unit (`step_change`), and each of it keeps the agreement. -/
theorem stepKeepsOwFlags : Obligations.StepKeepsOwFlags :=
  fun _ _ h ht => h.change (step_change ht).1

/-! ## The line -/

theorem Ow.ReleasedUnlessHeld.reset : Ow.reset.ReleasedUnlessHeld := fun _ hd => nomatch hd

theorem Ow.ReleasedUnlessHeld.change {w : Nat} {u u' : Ow} (h : u.ReleasedUnlessHeld) (hc : Ow.Change w u u') :
    u'.ReleasedUnlessHeld := by
  intro hb hd
  cases hc with
  | keep => exact h hb hd
  | advance op env hbusy => exact absurd (hb.symm.trans hbusy) Bool.false_ne_true
  | complete => cases hd
  | reject => exact h hb hd
  | pullLow => rfl
  | release => cases hd
  | accept => cases hb
  | reset => cases hd

/-- A step that ends BUSY completes the command or resets the unit; both release the line (R42, R155, R290). -/
theorem Ow.Change.dir_of_ended {w : Nat} {u u' : Ow} (hc : Ow.Change w u u') (hb : u.busy = true)
    (hb' : u'.busy = false) : u'.dir = .input := by
  cases hc with
  | complete => rfl
  | reset => rfl
  | accept => cases hb'
  | keep | advance | reject | pullLow | release => exact absurd (hb'.symm.trans hb) Bool.false_ne_true

/-- Settles O57: what a step can do to the OW unit (`step_change`); only OW_PULL_LOW and a running command drive the
line. -/
theorem stepKeepsReleaseInvariant : Obligations.StepKeepsReleaseInvariant :=
  fun _ _ h ht => ⟨h.change (step_change ht).1, (step_change ht).1.dir_of_ended⟩

end Sys2Proof.Machine

/-! PROOFS. Reset and the registers as the host reads them (R34–R39, R46–R51, R55). -/

namespace Sys2Proof.Machine

/-- Settles O54: each part of the invariant holds of the reset units. -/
theorem invariantAtReset : Obligations.InvariantAtReset := fun c =>
  ⟨.reset c.convWaitUs, .reset, Ow.ReleasedUnlessHeld.reset, .reset c⟩

/-- Settles O1: the hidden state field by field, and the registers slot by slot. -/
theorem resetStateIsR55 : Obligations.ResetStateIsR55 := by
  refine fun c => ⟨rfl, rfl, rfl, rfl, rfl, rfl, rfl, fun off => ?_⟩
  have hctrl : owCtrlWord Ow.reset = 0 := by decide
  have how : owStatusWord Ow.reset = 0 := by decide
  have hth : thStatusWord Th.reset = 0 := by decide
  unfold State.readReg
  split
  exacts [hctrl, how, rfl, rfl, rfl, hth, rfl, rfl, rfl, rfl, rfl]

/-! ## The bits of the status words (R36, R47) -/

/-- Six flags above 26 zero bits, bit by bit. -/
theorem getLsbD_sixFlags (b5 b4 b3 b2 b1 b0 : Bool) (i : Nat) :
    ((0 : BitVec 26) ++ BitVec.ofBool b5 ++ BitVec.ofBool b4 ++ BitVec.ofBool b3 ++ BitVec.ofBool b2 ++
        BitVec.ofBool b1 ++ BitVec.ofBool b0).getLsbD i =
      ((i == 0 && b0) || (i == 1 && b1) || (i == 2 && b2) || (i == 3 && b3) || (i == 4 && b4) || (i == 5 && b5)) := by
  simp only [BitVec.getLsbD_append, BitVec.getLsbD_ofBool]
  rcases i with _ | _ | _ | _ | _ | _ | i <;> simp

theorem Direction.bit_eq (d : Direction) : d.bit = decide (d = .output) := by cases d <;> rfl

/-- The two bits of a REASON: 1 for a zero voltage, 2 for a nonpositive resistance, 3 for a temperature out of range
(R47). -/
theorem Reason.code_eq (r : Reason) : r.code =
    BitVec.ofBool (decide (r = .nonpositiveResistance ∨ r = .temperatureOutOfRange)) ++
      BitVec.ofBool (decide (r = .zeroVoltage ∨ r = .temperatureOutOfRange)) := by
  cases r <;> decide

theorem getLsbD_thStatusWord (h : Th) (i : Nat) : (thStatusWord h).getLsbD i =
    ((i == 0 && h.busy) || (i == 1 && h.done) || (i == 2 && h.invalid) ||
      (i == 3 && decide (h.reason = .zeroVoltage ∨ h.reason = .temperatureOutOfRange)) ||
      (i == 4 && decide (h.reason = .nonpositiveResistance ∨ h.reason = .temperatureOutOfRange)) ||
      (i == 5 && h.cmdErr)) := by
  rw [← getLsbD_sixFlags, thStatusWord, Reason.code_eq]
  exact congrArg (fun x : BitVec 29 =>
    (x ++ BitVec.ofBool h.invalid ++ BitVec.ofBool h.done ++ BitVec.ofBool h.busy).getLsbD i) (BitVec.append_assoc' ..)

/-- Bit fields put side by side, as numbers (R19). -/
theorem toNat_append_eq_add {m n : Nat} (x : BitVec m) (y : BitVec n) : (x ++ y).toNat = x.toNat * 2 ^ n + y.toNat := by
  rw [BitVec.toNat_append, ← Nat.shiftLeft_add_eq_or_of_lt y.isLt, Nat.shiftLeft_eq]

theorem toNat_owCtrlWord (u : Ow) : (owCtrlWord u).toNat = u.ctrlArg.toNat * 2 ^ 8 + u.ctrlOp.toNat := by
  simp only [owCtrlWord, toNat_append_eq_add, BitVec.ofNat_eq_ofNat, BitVec.toNat_ofNat]
  omega

/-- Settles O3: the two status words by their bits, OW_CTRL by its fields, every other register by what it holds. -/
theorem registersReadAsMapped : Obligations.RegistersReadAsMapped := by
  intro s
  refine ⟨fun i _ => ?_, fun i _ => getLsbD_thStatusWord s.th i, toNat_owCtrlWord s.ow, ?_, rfl, rfl, rfl, ?_, rfl, rfl,
    rfl⟩
  · rw [← Direction.bit_eq]
    exact getLsbD_sixFlags ..
  · exact BitVec.toNat_setWidth_of_le (by decide)
  · exact BitVec.toNat_setWidth_of_le (by decide)

end Sys2Proof.Machine

/-! PROOFS. How a step runs a write to OW_CTRL and a bus byte (R40, R90, R116, R118, R158, R160). -/

namespace Sys2Proof.Machine

/-- Settles O14: the sequencer fetches the byte on the line, and the tick is that command's. -/
theorem stepRunsBusCommandOnTheLine : Obligations.StepRunsBusCommandOnTheLine := by
  intro s v j i ha hs hi
  have hf : s.popped.busFetch = some i := by
    simp only [State.busFetch, show s.popped.ow.sending s.popped.cfg.convWaitUs = some (v, j) from hs, hi]
    rfl
  rw [step, ha, State.act, State.timebase, hf]

/-- Settles O16: an idle unit accepts (`Ow.issueLine_idle`), and a line command's acceptance is its completion. -/
theorem lineCommandsComplete : Obligations.LineCommandsComplete := by
  intro s arg hb
  constructor
  · show s.issueLine 1 .output arg = _
    rw [State.issueLine, Ow.issueLine_idle hb]
    rfl
  · show s.issueLine 2 .input arg = _
    rw [State.issueLine, Ow.issueLine_idle hb]
    rfl

/-- While BUSY every OW command is rejected (R40, R115). -/
theorem exec_owCtrl_busy {i : Instr} {s : State} (hi : i.target = .owCtrl) (hb : s.ow.busy = true) :
    exec i s = .next { s with ow := s.ow.reject } := by
  obtain ⟨arg, he⟩ | ⟨arg, he⟩ | ⟨op, arg, he⟩ := exec_owCtrl_cases hi <;> rw [he]
  · rw [State.issueLine, Ow.issueLine_busy hb]
  · rw [State.issueLine, Ow.issueLine_busy hb]
  · rw [State.issueTimed, Ow.issueTimed_busy hb]

/-- The four byte lanes make up the word (R86). -/
theorem wordOfLanes_byteLane (w : Word) :
    wordOfLanes (byteLane w 0) (byteLane w 1) (byteLane w 2) (byteLane w 3) = w := by
  apply BitVec.eq_of_toNat_eq
  have := w.isLt
  simp only [wordOfLanes, byteLane, toNat_append_eq_add, BitVec.extractLsb'_toNat, Nat.shiftRight_eq_div_pow]
  omega

theorem decode_owCtrl_lanesOfWord (w : Word) : decode .owCtrl (lanesOfWord w) = decodeOw w :=
  congrArg decodeOw (wordOfLanes_byteLane w)

theorem opField_toNat (w : Word) : (opField w).toNat = (w &&& 0xF#32).toNat := by
  rw [BitVec.toNat_and]
  exact (BitVec.extractLsb'_toNat ..).trans (Nat.and_two_pow_sub_one_eq_mod w.toNat 4).symm

/-- An OP of 0 or of 9 and above is illegal (R116). -/
theorem decodeOw_illegal {w : Word} (h : (w &&& 0xF#32).toNat = 0 ∨ 9 ≤ (w &&& 0xF#32).toNat) :
    decodeOw w = .error (.illegalOp (opField w)) := by
  rw [← opField_toNat] at h
  unfold decodeOw
  simp only
  split
  case h_9 => rfl
  all_goals omega

theorem windowAccess_base_add (c : Config) {off : Nat} (h : off < 64) (h4 : off % 4 = 0) :
    windowAccess c (c.owtBase + off) .word = .ok off := by
  rw [windowAccess_ok_iff]
  simp [accessWellFormed, h, h4]

theorem step_of_agenda {s : State} {a : Action} {rest : List Action} (ha : s.agenda = a :: rest) :
    step s = ({ s with agenda := rest } : State).act a := by
  simp only [step, State.nextAction, State.popped, ha, List.headD_cons, List.tail_cons]

section
variable {s : State} {rest : List Action} {w : Word} (ha : s.agenda = .write (s.cfg.owtBase + 0x00) .word w :: rest)
include ha

/-- A host write to OW_CTRL runs the command its word decodes to (R90, R110). -/
theorem step_write_owCtrl_ok {i : Instr} (hd : decodeOw w = .ok i) : step s = exec i { s with agenda := rest } := by
  rw [step_of_agenda ha, State.act, State.hostWrite, windowAccess_base_add s.cfg (by decide) (by decide)]
  simp only [commandTarget, decode_owCtrl_lanesOfWord, hd]

/-- A host write to OW_CTRL of a word that decodes to no command is rejected (R40, R116). -/
theorem step_write_owCtrl_error {e : DecodeError} (hd : decodeOw w = .error e) :
    step s = .next { s with agenda := rest, ow := s.ow.reject } := by
  rw [step_of_agenda ha, State.act, State.hostWrite, windowAccess_base_add s.cfg (by decide) (by decide)]
  simp only [commandTarget, decode_owCtrl_lanesOfWord, hd, State.noCommandWrite]

end

/-- Settles O18: a word that decodes to no command is rejected; one that does has no illegal OP, so that the unit it meets
is BUSY. -/
theorem rejectedWriteSetsOnlyCmdErr : Obligations.RejectedWriteSetsOnlyCmdErr := by
  intro s rest w ha h
  cases hd : decodeOw w with
  | error e => exact step_write_owCtrl_error ha hd
  | ok i =>
    have hi : i.target = .owCtrl := decode_target ((decode_owCtrl_lanesOfWord w).trans hd)
    obtain hb | hop := h
    · exact (step_write_owCtrl_ok ha hd).trans (exec_owCtrl_busy hi hb)
    · cases (decodeOw_illegal hop).symm.trans hd

end Sys2Proof.Machine

/-! SUPPORT. What a host access can answer, by its address, width and kind (R81, R82, R90, R292). -/

namespace Sys2Proof.Machine

/-! ## The window -/

theorem windowOffset_base_add (c : Config) {off : Nat} (h : off < 64) :
    windowOffset c (c.owtBase + off) = some off := by
  simp [windowOffset, h]

/-- R82's refusal: inside the window, of another width or at an offset that is no multiple of 4. -/
theorem windowAccess_base_add_undefined (c : Config) {off : Nat} {width : AccessWidth} (h : off < 64)
    (hu : width ≠ .word ∨ off % 4 ≠ 0) : windowAccess c (c.owtBase + off) width = .error .undefinedAccess := by
  simp only [windowAccess, windowOffset_base_add c h]
  exact if_neg fun ⟨hw, h4⟩ => hu.elim (· hw) (· h4)

theorem windowAccess_of_wellFormed {c : Config} {addr : Nat} {width : AccessWidth}
    (h : accessWellFormed c.owtBase addr width = true) : ∃ off, windowAccess c addr width = .ok off :=
  ⟨_, (windowAccess_ok_iff c addr width _).mpr ⟨h, rfl⟩⟩

theorem windowAccess_error {c : Config} {addr : Nat} {width : AccessWidth} {r : Refusal}
    (h : windowAccess c addr width = .error r) : r = .undefinedAccess ∨ r = .outsideWindow := by
  unfold windowAccess at h
  split at h
  · cases h
    exact .inr rfl
  · split at h <;> cases h
    exact .inl rfl

theorem windowAccess_of_not_wellFormed {c : Config} {addr : Nat} {width : AccessWidth}
    (h : accessWellFormed c.owtBase addr width = false) :
    ∃ r, windowAccess c addr width = .error r ∧ (r = .undefinedAccess ∨ r = .outsideWindow) := by
  cases hw : windowAccess c addr width with
  | error r => exact ⟨r, rfl, windowAccess_error hw⟩
  | ok off => cases h.symm.trans ((windowAccess_ok_iff ..).mp hw).1

/-! ## The accesses among the actions -/

/-- The address and width of an action that accesses memory (R82, R124). -/
def Action.access : Action → Option (Nat × AccessWidth)
  | .tick => none
  | .reset => none
  | .read addr width => some (addr, width)
  | .write addr width _ => some (addr, width)
  | .poll addr width _ _ => some (addr, width)
  | .failUnless _ _ => none

theorem Action.access_of_not_defined {base : Nat} {a : Action} (h : a.defined base = false) :
    ∃ addr width, a.access = some (addr, width) ∧ accessWellFormed base addr width = false := by
  cases a with
  | tick => cases h
  | reset => cases h
  | read addr width => exact ⟨addr, width, rfl, h⟩
  | write addr width w => exact ⟨addr, width, rfl, h⟩
  | poll addr width mask value => exact ⟨addr, width, rfl, h⟩
  | failUnless mask value => cases h

/-- A read, a write and a poll alike are refused where the window refuses the access (R82). -/
theorem State.act_refused {s : State} {a : Action} {addr : Nat} {width : AccessWidth} {r : Refusal}
    (ha : a.access = some (addr, width)) (h : windowAccess s.cfg addr width = .error r) : s.act a = .refused r := by
  cases a with
  | tick => cases ha
  | reset => cases ha
  | read addr width => cases ha; simp only [State.act, State.hostRead, h]
  | write addr width w => cases ha; simp only [State.act, State.hostWrite, h]
  | poll addr width mask value => cases ha; simp only [State.act, State.hostPoll, h]
  | failUnless mask value => cases ha

/-! ## A write the window defines -/

section
variable {s : State} {addr off : Nat} {width : AccessWidth} {w : Word} (hoff : windowAccess s.cfg addr width = .ok off)
include hoff

theorem State.hostWrite_ignored (ht : commandTarget off = none) : s.hostWrite addr width w = .next s := by
  simp only [State.hostWrite, hoff, ht]

theorem State.hostWrite_command {t : Target} {i : Instr} (ht : commandTarget off = some t)
    (hd : decode t (lanesOfWord w) = .ok i) : s.hostWrite addr width w = exec i s := by
  simp only [State.hostWrite, hoff, ht, hd]

theorem State.hostWrite_noCommand {t : Target} {e : DecodeError} (ht : commandTarget off = some t)
    (hd : decode t (lanesOfWord w) = .error e) : s.hostWrite addr width w = .next (s.noCommandWrite t) := by
  simp only [State.hostWrite, hoff, ht, hd]

end

/-- A command of the host's always answers: it is accepted or rejected, and never refused (R93, R115, R230). -/
theorem exec_host_total {i : Instr} (hi : i.target ≠ .bus) (s : State) : ∃ t, exec i s = .next t := by
  cases ht : i.target with
  | owCtrl => obtain ⟨arg, he⟩ | ⟨arg, he⟩ | ⟨op, arg, he⟩ := exec_owCtrl_cases ht <;> rw [he] <;> exact ⟨_, rfl⟩
  | thCtrl =>
    obtain rfl : i = .thConvert := by cases i <;> cases ht; rfl
    show ∃ t, execThConvert s = .next t
    unfold execThConvert
    split <;> exact ⟨_, rfl⟩
  | bus => exact absurd ht hi

theorem State.hostWrite_total {s : State} {addr off : Nat} {width : AccessWidth} (w : Word)
    (hoff : windowAccess s.cfg addr width = .ok off) : ∃ t, s.hostWrite addr width w = .next t := by
  cases ht : commandTarget off with
  | none => exact ⟨_, State.hostWrite_ignored hoff ht⟩
  | some t =>
    cases hd : decode t (lanesOfWord w) with
    | error e => exact ⟨_, State.hostWrite_noCommand hoff ht hd⟩
    | ok i =>
      rw [State.hostWrite_command hoff ht hd]
      exact exec_host_total (decode_target hd ▸ commandTarget_ne_bus ht) s

theorem State.hostPoll_total {s : State} {addr off : Nat} {width : AccessWidth} (mask value : Word)
    (hoff : windowAccess s.cfg addr width = .ok off) : ∃ t, s.hostPoll addr width mask value = .next t := by
  simp only [State.hostPoll, hoff, State.timebase_eq]
  split <;> exact ⟨_, rfl⟩

/-! ## Every action -/

/-- An action that is no access, or an access the window defines, is never refused (R93). -/
theorem State.act_defined {s : State} {a : Action} (h : a.defined s.cfg.owtBase = true) : ∃ t, s.act a = .next t := by
  cases a with
  | tick => exact ⟨_, s.timebase_eq⟩
  | reset => exact ⟨_, rfl⟩
  | read addr width =>
    obtain ⟨off, hoff⟩ := windowAccess_of_wellFormed h
    simp only [State.act, State.hostRead, hoff]
    exact ⟨_, rfl⟩
  | write addr width w =>
    obtain ⟨off, hoff⟩ := windowAccess_of_wellFormed h
    exact State.hostWrite_total w hoff
  | poll addr width mask value =>
    obtain ⟨off, hoff⟩ := windowAccess_of_wellFormed h
    exact State.hostPoll_total mask value hoff
  | failUnless mask value => exact ⟨_, rfl⟩

/-- Every other action is refused by name (R82; log 12). -/
theorem State.act_not_defined {s : State} {a : Action} (h : a.defined s.cfg.owtBase = false) :
    s.act a = .refused .undefinedAccess ∨ s.act a = .refused .outsideWindow := by
  obtain ⟨addr, width, ha, hw⟩ := Action.access_of_not_defined h
  obtain ⟨r, hr, rfl | rfl⟩ := windowAccess_of_not_wellFormed hw
  · exact .inl (State.act_refused ha hr)
  · exact .inr (State.act_refused ha hr)

end Sys2Proof.Machine

/-! PROOFS. The window and its accesses (20_memory), byte lanes (R86), and results that wait for completion (R91). -/

namespace Sys2Proof.Machine

/-- Settles O7: a defined action is answered (`State.act_defined`), and every other one is refused
(`State.act_not_defined`). -/
theorem stepsUnlessAccessUndefined : Obligations.StepsUnlessAccessUndefined := by
  intro s
  refine ⟨⟨fun ⟨t, ht⟩ => ?_, State.act_defined (s := s.popped)⟩, State.act_not_defined (s := s.popped)⟩
  by_contra hn
  obtain hr | hr := State.act_not_defined (s := s.popped) (eq_false_of_ne_true hn) <;> cases ht.symm.trans hr

/-- Settles O9: a lane is an extracted field, and the four of them make up the word (`wordOfLanes_byteLane`). -/
theorem byteLanesLittleEndian : Obligations.ByteLanesLittleEndian := by
  refine ⟨fun w i j _ hj => ?_, wordOfLanes_byteLane⟩
  rw [byteLane, BitVec.getLsbD_extractLsb', decide_eq_true hj, Bool.true_and]

/-- A change that leaves a running unit BUSY is none, a tick before the last, or a rejection, and writes no result
(R155). -/
theorem Ow.Change.resultRegs_of_busy {w : Nat} {u u' : Ow} (hc : Ow.Change w u u') (hb : u.busy = true)
    (hb' : u'.busy = true) : u'.resultRegs = u.resultRegs := by
  cases hc with
  | keep => rfl
  | advance => rfl
  | complete => cases hb'
  | reject => rfl
  | pullLow _ hi => cases hb.symm.trans hi
  | release _ hi => cases hb.symm.trans hi
  | accept _ _ hi => cases hb.symm.trans hi
  | reset => cases hb'

/-- Settles O24: what a step can do to the OW unit (`step_change`), and what of it leaves the unit BUSY. -/
theorem noResultBeforeCompletion : Obligations.NoResultBeforeCompletion :=
  fun _ _ hb _ h hb' => (step_change h).1.resultRegs_of_busy hb hb'

/-- Settles O4: a read at an offset of the window answers its slot's word and keeps both units. -/
theorem readsHaveNoSideEffect : Obligations.ReadsHaveNoSideEffect := by
  intro s rest off ha h h4
  refine ⟨_, ?_, rfl, fun _ => rfl⟩
  rw [step_of_agenda ha, State.act, State.hostRead, windowAccess_base_add s.cfg h h4]
  rfl

/-- Settles O5: the fourteen slots that are no command register lie in the window, and none has a command target. -/
theorem writesToOtherSlotsIgnored : Obligations.WritesToOtherSlotsIgnored := by
  constructor
  · intro s rest v off hmem ha
    have hslot : off < 64 ∧ off % 4 = 0 ∧ commandTarget off = none := by
      clear ha
      revert off
      decide
    obtain ⟨h, h4, ht⟩ := hslot
    rw [step_of_agenda ha]
    exact State.hostWrite_ignored (windowAccess_base_add s.cfg h h4) ht
  · intro s off hmem
    simp only [List.mem_cons, List.not_mem_nil, or_false] at hmem
    obtain rfl | rfl | rfl | rfl | rfl := hmem <;> rfl

/-- Settles O6: the window refuses the access (`windowAccess_base_add_undefined`), whichever of the three it is. -/
theorem undefinedAccessRefused : Obligations.UndefinedAccessRefused := by
  intro s rest width off v m h hu ha
  have hw := windowAccess_base_add_undefined s.cfg h hu
  obtain ha | ha | ha := ha <;> rw [step_of_agenda ha] <;> exact State.act_refused rfl hw

/-- Settles O13: the two command registers lie in the window, and each has its own decoder and its own answer to a word
that decodes to no command. -/
theorem stepRunsWrittenCommand : Obligations.StepRunsWrittenCommand := by
  intro s rest w t off hreg ha
  have hoff : windowAccess ({ s with agenda := rest } : State).cfg (s.cfg.owtBase + off) .word = .ok off := by
    obtain ⟨-, rfl⟩ | ⟨-, rfl⟩ := hreg <;> exact windowAccess_base_add s.cfg (by decide) (by decide)
  have ht : commandTarget off = some t := by
    obtain ⟨rfl, rfl⟩ | ⟨rfl, rfl⟩ := hreg <;> rfl
  rw [step_of_agenda ha, State.act]
  refine ⟨fun i hd => State.hostWrite_command hoff ht hd, fun ⟨e, hd⟩ => ?_⟩
  rw [State.hostWrite_noCommand hoff ht hd]
  obtain ⟨rfl, -⟩ | ⟨rfl, -⟩ := hreg <;> rfl

end Sys2Proof.Machine

/-! SUPPORT. The fields of a command word and its bytes (R86, R111, R113), and what each decoder accepts (R112, R113,
R118). -/

namespace Sys2Proof

open Machine (toNat_append_eq_add opField_toNat decode_owCtrl_lanesOfWord decodeOw_illegal)

/-! ## Fields of a word given by its lanes, and lanes of a word given by its fields -/

theorem opField_wordOfLanes (b0 b1 b2 b3 : Byte) : opField (wordOfLanes b0 b1 b2 b3) = b0.setWidth 4 := by
  apply BitVec.eq_of_toNat_eq
  simp only [opField, wordOfLanes, BitVec.extractLsb'_toNat, toNat_append_eq_add, BitVec.toNat_setWidth,
    Nat.shiftRight_zero]
  omega

theorem argField_wordOfLanes (b0 b1 b2 b3 : Byte) : argField (wordOfLanes b0 b1 b2 b3) = b1 := by
  apply BitVec.eq_of_toNat_eq
  simp only [argField, wordOfLanes, BitVec.extractLsb'_toNat, toNat_append_eq_add, Nat.shiftRight_eq_div_pow]
  omega

theorem startField_wordOfLanes (b0 b1 b2 b3 : Byte) : startField (wordOfLanes b0 b1 b2 b3) = b0.getLsbD 0 := by
  rw [startField, wordOfLanes, BitVec.getLsbD_append]
  rfl

theorem opField_owcWord (op : BitVec 4) (arg : Byte) : opField (owcWord op arg) = op := by
  apply BitVec.eq_of_toNat_eq
  simp only [opField, owcWord, BitVec.extractLsb'_toNat, toNat_append_eq_add, Nat.shiftRight_zero]
  omega

theorem argField_owcWord (op : BitVec 4) (arg : Byte) : argField (owcWord op arg) = arg := by
  apply BitVec.eq_of_toNat_eq
  simp only [argField, owcWord, BitVec.extractLsb'_toNat, toNat_append_eq_add, Nat.shiftRight_eq_div_pow,
    BitVec.ofNat_eq_ofNat, BitVec.toNat_ofNat]
  omega

/-- Bits 7:4 and 31:16 of an encoded word are 0 (R117). -/
theorem lanesOfWord_owcWord (op : BitVec 4) (arg : Byte) :
    lanesOfWord (owcWord op arg) = [op.setWidth 8, arg, 0, 0] := by
  simp only [lanesOfWord, List.cons.injEq, and_true]
  refine ⟨?_, ?_, ?_, ?_⟩ <;> apply BitVec.eq_of_toNat_eq <;>
    simp only [byteLane, owcWord, BitVec.extractLsb'_toNat, toNat_append_eq_add, Nat.shiftRight_eq_div_pow,
      BitVec.ofNat_eq_ofNat, BitVec.toNat_ofNat, BitVec.toNat_setWidth] <;> omega

/-! ## The OW commands (R111, R112) -/

/-- OP and ARG of an OW command, as the rows of R112 give them. -/
def Instr.owFields : Instr → Option (BitVec 4 × Byte)
  | .owPullLow arg => some (1, arg)
  | .owRelease arg => some (2, arg)
  | .owReset arg => some (3, arg)
  | .owWriteBit arg => some (4, arg)
  | .owReadBit arg => some (5, arg)
  | .owWriteByte arg => some (6, arg)
  | .owReadByte arg => some (7, arg)
  | .owReadTemp arg => some (8, arg)
  | .thConvert => none
  | .skipRom => none
  | .startConversion => none
  | .readScratchpad => none

theorem encodeBytes_of_owFields {i : Instr} {op : BitVec 4} {arg : Byte} (h : i.owFields = some (op, arg)) :
    encodeBytes i = lanesOfWord (owcWord op arg) := by
  cases i <;> cases h <;> rfl

theorem exists_owFields_of_target {i : Instr} (h : i.target = .owCtrl) : ∃ op arg, i.owFields = some (op, arg) := by
  cases i with
  | thConvert | skipRom | startConversion | readScratchpad => cases h
  | _ => exact ⟨_, _, rfl⟩

/-- A word decodes to an OW command exactly where it carries that command's OP and ARG (R111, R112). -/
theorem decodeOw_eq_ok_iff {w : Word} {i : Instr} :
    decodeOw w = .ok i ↔ i.owFields = some (opField w, argField w) := by
  constructor
  · intro h
    unfold decodeOw at h
    simp only at h
    split at h <;> cases h
    all_goals
      rename_i hop
      exact congrArg (fun op => some (op, argField w)) (BitVec.eq_of_toNat_eq hop.symm)
  · intro h
    cases i <;> simp only [Instr.owFields, Option.some.injEq, Prod.mk.injEq, reduceCtorEq] at h <;>
      obtain ⟨hop, rfl⟩ := h <;> simp only [decodeOw, ← hop] <;> rfl

theorem decodeOw_eq_error_iff {w : Word} :
    (∃ e, decodeOw w = .error e) ↔ w &&& 0xF#32 = 0#32 ∨ 9 ≤ (w &&& 0xF#32).toNat := by
  rw [← BitVec.toNat_inj]
  refine ⟨fun ⟨e, h⟩ => ?_, fun h => ⟨_, decodeOw_illegal h⟩⟩
  rw [← opField_toNat, BitVec.toNat_zero]
  unfold decodeOw at h
  simp only at h
  split at h
  case h_9 =>
    simp only [imp_false] at *
    omega
  all_goals cases h

/-! ## TH_CONVERT (R113) and the bus bytes (R118) -/

theorem decodeTh_eq_ok_iff {w : Word} {i : Instr} :
    decodeTh w = .ok i ↔ startField w = true ∧ i = .thConvert := by
  unfold decodeTh
  cases startField w
  · simp
  · simp [eq_comm]

/-- The byte a bus command is on the line (R118). -/
def Instr.busByte : Instr → Option Byte
  | .skipRom => some 0xCC
  | .startConversion => some 0x44
  | .readScratchpad => some 0xBE
  | _ => none

theorem encodeBytes_of_busByte {i : Instr} {v : Byte} (h : i.busByte = some v) : encodeBytes i = [v] := by
  cases i <;> cases h <;> rfl

/-- A byte on the line decodes to the bus command whose byte it is (R118). -/
theorem decodeBus_eq_ok_iff {v : Byte} {i : Instr} : decodeBus v = .ok i ↔ i.busByte = some v := by
  constructor
  · intro h
    unfold decodeBus at h
    split at h <;> cases h
    all_goals
      rename_i hv
      exact congrArg some (BitVec.eq_of_toNat_eq hv.symm)
  · intro h
    cases i <;> cases h <;> rfl

/-! ## Decoding by target (R110) -/

/-- Bytes that decode are the four lanes of a word with a command in it, or one bus byte (R110, R118). -/
theorem decode_ok_cases {t : Target} {bytes : List Byte} {i : Instr} (h : decode t bytes = .ok i) :
    (t = .owCtrl ∧ ∃ b0 b1 b2 b3, bytes = [b0, b1, b2, b3] ∧ decodeOw (wordOfLanes b0 b1 b2 b3) = .ok i) ∨
      (t = .thCtrl ∧ ∃ b0 b1 b2 b3, bytes = [b0, b1, b2, b3] ∧ decodeTh (wordOfLanes b0 b1 b2 b3) = .ok i) ∨
      (t = .bus ∧ ∃ v, bytes = [v] ∧ decodeBus v = .ok i) := by
  unfold decode at h
  split at h
  · exact .inl ⟨rfl, _, _, _, _, rfl, h⟩
  · exact .inr (.inl ⟨rfl, _, _, _, _, rfl, h⟩)
  · exact .inr (.inr ⟨rfl, _, rfl, h⟩)
  · cases h

theorem decode_encode_of_owFields {i : Instr} {op : BitVec 4} {arg : Byte} (h : i.owFields = some (op, arg)) :
    decode .owCtrl (encodeBytes i) = .ok i := by
  rw [encodeBytes_of_owFields h, decode_owCtrl_lanesOfWord, decodeOw_eq_ok_iff, opField_owcWord, argField_owcWord, h]

theorem decode_encode (i : Instr) : decode i.target (encodeBytes i) = .ok i := by
  cases ht : i.target with
  | owCtrl =>
    obtain ⟨op, arg, h⟩ := exists_owFields_of_target ht
    exact decode_encode_of_owFields h
  | thCtrl => cases i <;> cases ht; rfl
  | bus => cases i <;> cases ht <;> rfl

/-- Four bytes with the upper two 0, read by number. -/
theorem getD_lowTwoBytes (b0 b1 : Byte) (n : Nat) :
    [b0, b1, 0, 0].getD n 0 = if n = 0 then b0 else if n = 1 then b1 else 0 := by
  rcases n with _ | _ | _ | _ | n <;> rfl

/-- The OP bits of a byte, the reserved bits cleared (R117). -/
theorem setWidth_four_eight (b : Byte) : (b.setWidth 4).setWidth 8 = b &&& 0x0F#8 := by
  apply BitVec.eq_of_toNat_eq
  have h : b.toNat &&& 15 = b.toNat % 16 := Nat.and_two_pow_sub_one_eq_mod b.toNat 4
  simp only [BitVec.toNat_setWidth, BitVec.toNat_and, BitVec.toNat_ofNat, Nat.reducePow, Nat.reduceMod, h]
  omega

/-- Settles O12: a word decodes to the OW command with its OP and ARG (`decodeOw_eq_ok_iff`), and the encoder writes
these two fields above reserved bits that are 0 (`lanesOfWord_owcWord`); each command of the other two formats has one
encoding. -/
theorem decodeEncodeAgree : Obligations.DecodeEncodeAgree := by
  refine ⟨decode_encode, fun t bytes i h => ⟨Machine.decode_target h, ?_⟩⟩
  obtain ⟨rfl, b0, b1, b2, b3, rfl, hd⟩ | ⟨rfl, b0, b1, b2, b3, rfl, hd⟩ | ⟨rfl, v, rfl, hd⟩ := decode_ok_cases h
  · have hbytes : (encode i).bytes = [b0 &&& 0x0F#8, b1, 0, 0] := by
      rw [decodeOw_eq_ok_iff, opField_wordOfLanes, argField_wordOfLanes] at hd
      rw [encode, encodeBytes_of_owFields hd, lanesOfWord_owcWord, setWidth_four_eight]
    rw [hbytes]
    exact ⟨rfl, getD_lowTwoBytes _ _⟩
  · obtain ⟨hstart, rfl⟩ := decodeTh_eq_ok_iff.mp hd
    have hb0 : b0 &&& 0x01#8 = 1#8 := by
      rw [startField_wordOfLanes] at hstart
      rw [BitVec.and_one_eq_setWidth_ofBool_getLsbD, hstart]
      rfl
    refine ⟨rfl, fun n => ?_⟩
    show [1#8, 0, 0, 0].getD n 0 = if n = 0 then b0 &&& 0x01#8 else 0
    rw [getD_lowTwoBytes, hb0, ite_self]
  · rw [encode, encodeBytes_of_busByte (decodeBus_eq_ok_iff.mp hd)]
    exact ⟨rfl, fun _ => rfl⟩

end Sys2Proof

/-! PROOFS. The opcode table (R111–R113, R116–R118) and the words of the spec's syntax table (R123). -/

namespace Sys2Proof

/-- Under the table's mask a word matches an OP exactly where its OP field is that code (R111). -/
theorem and_opMask_eq_iff {w m : Word} (hm : m.toNat < 16) : w &&& 0xF#32 = m ↔ opField w = m.setWidth 4 := by
  rw [← BitVec.toNat_inj, ← BitVec.toNat_inj, Machine.opField_toNat, BitVec.toNat_setWidth, Nat.mod_eq_of_lt hm]

theorem argField_eq_shiftRight (w : Word) : argField w = (w >>> 8).setWidth 8 := by
  apply BitVec.eq_of_toNat_eq
  rw [argField, BitVec.extractLsb'_toNat, BitVec.toNat_setWidth, BitVec.toNat_ushiftRight]

/-- A row of the table for OW_CTRL: its match under the mask, its command taking ARG from bits 15:8 (R111, R112). -/
theorem decodeOw_eq_ok_iff_of_row {w m : Word} {arg : Byte} {i : Instr} (hm : m.toNat < 16)
    (hi : i.owFields = some (m.setWidth 4, arg)) :
    decodeOw w = .ok i ↔ w &&& 0xF#32 = m ∧ arg = (w >>> 8).setWidth 8 := by
  rw [decodeOw_eq_ok_iff, hi, and_opMask_eq_iff hm, ← argField_eq_shiftRight, Option.some.injEq, Prod.mk.injEq,
    eq_comm (a := opField w)]

theorem and_startMask_eq_iff (w : Word) : w &&& 1#32 = 1#32 ↔ startField w = true := by
  rw [startField, BitVec.and_one_eq_setWidth_ofBool_getLsbD]
  cases w.getLsbD 0 <;> decide

/-- Settles O11: row by row `decodeOw_eq_ok_iff_of_row`; the other formats by their decoders' equivalences. -/
theorem decodingFollowsOpcodeTable : Obligations.DecodingFollowsOpcodeTable := by
  refine ⟨fun w p hp arg => ?_, fun w => decodeOw_eq_error_iff, fun w => ?_, fun v => ?_⟩
  · simp only [List.mem_cons, List.not_mem_nil, or_false] at hp
    obtain rfl | rfl | rfl | rfl | rfl | rfl | rfl | rfl := hp <;> exact decodeOw_eq_ok_iff_of_row (by decide) rfl
  · rw [decodeTh_eq_ok_iff, and_startMask_eq_iff, and_iff_left rfl]
  · simp only [decodeBus_eq_ok_iff, Instr.busByte, Option.some.injEq]
    exact ⟨eq_comm, eq_comm, eq_comm⟩

/-- Settles O10: the decoder evaluated on each of the nine. -/
theorem specWordsDecode : Obligations.SpecWordsDecode := by
  unfold Obligations.SpecWordsDecode
  decide

end Sys2Proof

/-! PROOFS. The bus commands of OW_READ_TEMP (R118, R172, R205). -/

namespace Sys2Proof.Machine

/-- The converse of `Ow.sending_eq_some`. -/
theorem Ow.sending_of_phase {w : Nat} {u : Ow} {v : Byte} {j : Nat} (hb : u.busy = true) (ho : u.op = some .readTemp)
    (hp : readTempPhase w u.k = .sendByte v j) : u.sending w = some (v, j) := by
  simp only [Ow.sending, hb, ho, hp, if_true]

theorem State.busTick_not_sending {s : State} {v : Byte} (h : ∀ j, s.ow.sending s.cfg.convWaitUs ≠ some (v, j)) :
    s.busTick v = .refused .busByteNotScheduled := by
  unfold State.busTick
  split
  · rename_i b j hs
    exact if_neg fun hb => h j (by rw [hs, hb])
  · rfl

/-- A bus command is a tick of its byte (R118). -/
theorem exec_of_busByte {i : Instr} {v : Byte} (h : i.busByte = some v) (s : State) : exec i s = s.busTick v := by
  cases i <;> cases h <;> rfl

/-- Settles O22: each bus command is a tick of its byte, and such a tick is refused where the byte is not sent. -/
theorem busCommandsRefusedElsewhere : Obligations.BusCommandsRefusedElsewhere := by
  intro s p hp h
  have hi : p.1.busByte = some p.2 := by
    clear h
    revert p
    decide
  rw [exec_of_busByte hi, State.busTick_not_sending h]

/-- What one tick of a byte on the line does, and where the line goes next inside the byte (R172). -/
theorem State.tick_sending {s : State} {v : Byte} {j : Nat} (h : s.ow.sending s.cfg.convWaitUs = some (v, j)) :
    s.tick.ow = { s.ow with k := s.ow.k + 1, dir := s.tick.ow.dir } ∧
      (j + 1 < 560 → s.tick.ow.dir = writeByteDir v (j + 1)) := by
  rw [State.tick_ow, ← Ow.sendTick_eq_tick h]
  exact ⟨rfl, fun hj => if_pos hj⟩

theorem writeByteDir_eq_output_iff (v : Byte) (j : Nat) :
    writeByteDir v j = .output ↔ j % 70 < if v.getLsbD (j / 70) then 6 else 60 := by
  rw [writeByteDir_eq]
  generalize (if v.getLsbD (j / 70) then 6 else 60) = n
  split <;> simp_all

/-- The bus commands of OW_READ_TEMP with `W = w`, each with its byte and the offset of its first tick (R118, R205). -/
def busSchedule (w : Nat) : List (Instr × Byte × Nat) :=
  [(.skipRom, 0xCC, 960), (.skipRom, 0xCC, 2080 + w + 960), (.startConversion, 0x44, 1520),
    (.readScratchpad, 0xBE, 2080 + w + 1520)]

theorem readTempPhase_of_mem_busSchedule {w k : Nat} {p : Instr × Byte × Nat} (hp : p ∈ busSchedule w)
    (h1 : p.2.2 ≤ k) (h2 : k < p.2.2 + 560) :
    p.1.busByte = some p.2.1 ∧ readTempPhase w k = .sendByte p.2.1 (k - p.2.2) := by
  simp only [busSchedule, List.mem_cons, List.not_mem_nil, or_false] at hp
  rw [readTempPhase_eq]
  obtain rfl | rfl | rfl | rfl := hp <;> refine ⟨rfl, ?_⟩ <;> dsimp only at h1 h2 ⊢
  · rw [if_neg (by omega), if_pos (by omega)]
  · rw [if_neg (by omega), if_neg (by omega), if_neg (by omega), if_neg (by omega), if_neg (by omega),
      if_pos (by omega)]
  · rw [if_neg (by omega), if_neg (by omega), if_pos (by omega)]
  · rw [if_neg (by omega), if_neg (by omega), if_neg (by omega), if_neg (by omega), if_neg (by omega),
      if_neg (by omega), if_pos (by omega)]

/-- Settles O21: there the sequencer is sending the byte (`readTempPhase_of_mem_busSchedule`), so that the command is the
tick (`State.busTick_sending`), which drives the byte's write slots (`State.tick_sending`). -/
theorem busCommandsSendTheirByte : Obligations.BusCommandsSendTheirByte := by
  intro s p hp hb ho h1 h2
  obtain ⟨hi, hphase⟩ := readTempPhase_of_mem_busSchedule hp h1 h2
  have hs := Ow.sending_of_phase hb ho hphase
  obtain ⟨how, hdir⟩ := State.tick_sending hs
  refine ⟨by rw [exec_of_busByte hi, State.busTick_sending hs], how, fun hlt => ?_⟩
  rw [hdir (by omega), writeByteDir_eq_output_iff, Nat.sub_add_comm h1]

end Sys2Proof.Machine

/-! PROOFS. The exact decoding of a scratchpad word (R122, R204), and the host's poll (R124). -/

namespace Sys2Proof.Machine

theorem f32Finite_pattern (b : Bool) {e f : Nat} (he : e < 255) (hf : f < 2 ^ 23) :
    f32Finite (f32Pattern b e f) = true := by
  rw [f32Finite, f32Exp_pattern b (by omega) hf, bne_iff_ne]
  omega

theorem f32Finite_f32OfSixteenths {n : Int} (hn : n.natAbs < 2 ^ 24) : f32Finite (f32OfSixteenths n) = true := by
  by_cases h0 : n = 0
  · subst h0
    decide
  have hm0 : n.natAbs ≠ 0 := Int.natAbs_ne_zero.mpr h0
  have he : n.natAbs.log2 < 24 := (Nat.log2_lt hm0).mpr hn
  rw [f32OfSixteenths_eq_pattern h0]
  exact f32Finite_pattern _ (by omega) (f32_fraction_lt hm0 hn)

/-- Settles O38: a signed 16-bit word has fewer than 24 bits, so that its sixteenth is a binary32 number. -/
theorem tempBitsAreExact : Obligations.TempBitsAreExact := by
  refine ⟨fun raw => ⟨f32Finite_f32OfSixteenths ?_, f32Value_tempBits raw⟩, rfl⟩
  have := raw.toInt_lt
  have := raw.le_toInt
  omega

theorem State.pollHolds_iff (s : State) (off : Nat) (mask value : Word) :
    s.pollHolds off mask value = true ↔ s.readReg off &&& mask = value := beq_iff_eq

section
variable {s : State} {addr off : Nat} {width : AccessWidth} {mask value : Word}
  (hoff : windowAccess s.cfg addr width = .ok off)
include hoff

theorem State.hostPoll_met (h : s.readReg off &&& mask = value) : s.hostPoll addr width mask value = .next s := by
  simp only [State.hostPoll, hoff, (s.pollHolds_iff off mask value).mpr h, if_true]

/-- An unmet poll is one tick, after which it is still to come (R124; log 15). -/
theorem State.hostPoll_unmet (h : s.readReg off &&& mask ≠ value) : s.hostPoll addr width mask value =
    .next ({ s with agenda := .poll addr width mask value :: s.agenda } : State).tick := by
  simp only [State.hostPoll, hoff, s.pollHolds_iff off mask value, h, if_false, State.timebase_eq]

end

/-- Settles O8: the offset is in the window, and a round of the poll goes on (`State.hostPoll_met`) or stands
(`State.hostPoll_unmet`). -/
theorem pollWaitsForItsCondition : Obligations.PollWaitsForItsCondition := by
  intro s rest off mask value ha h h4
  have hoff : windowAccess ({ s with agenda := rest } : State).cfg (s.cfg.owtBase + off) .word = .ok off :=
    windowAccess_base_add s.cfg h h4
  rw [step_of_agenda ha, State.act]
  refine ⟨fun hc => State.hostPoll_met hoff hc, fun hc => (State.hostPoll_unmet hoff hc).trans ?_⟩
  rw [← ha]

end Sys2Proof.Machine

/-! SUPPORT. A timed command tick by tick (R151–R155): the samples it has taken, the unit while it runs, and its end. -/

namespace Sys2Proof.Machine

/-! ## Directions and samples (R152, R176) -/

theorem lowFor_eq_output_iff (n j : Nat) : lowFor n j = .output ↔ j < n := by
  unfold lowFor
  split <;> simp_all

theorem Phase.dir_of_sampleAt {p : Phase} (h : p.sampleAt = true) : p.dir = .input := by
  cases p with
  | resetSlot j => rw [Phase.dir, (resetSampleAt_iff j).mp h]; rfl
  | sendByte v j => cases h
  | readByte j => rw [Phase.dir, readByteDir_eq, (readByteSampleAt_iff j).mp h]; rfl
  | _ => rfl

/-- A sample is taken only on a released line (R176). -/
theorem dir_of_isSample {w : Nat} {op : OwOp} {k : Nat} {ss : List Bool} (h : isSample w op k ss = true) (arg : Byte)
    (ss' : List Bool) : dir w op arg k ss' = .input := by
  cases op with
  | reset => exact Phase.dir_of_sampleAt (p := .resetSlot k) h
  | writeBit => cases h
  | readBit => rw [dir, (readSampleAt_iff k).mp h]; rfl
  | writeByte => cases h
  | readByte => exact Phase.dir_of_sampleAt (p := .readByte k) h
  | readTemp => exact Phase.dir_of_sampleAt (p := readTempPhase w k) h

theorem lineLevel_eq (d : Direction) (env : Bool) : lineLevel d env = if d = .output then false else env := by
  cases d <;> rfl

/-- The ticks, counted from offset `k`, at which a command samples during its next `n` ticks (R152). -/
def samplePoints (w : Nat) (op : OwOp) (k n : Nat) : List Nat :=
  (List.range n).filter fun i => isSample w op (k + i) []

theorem samplePoints_succ (w : Nat) (op : OwOp) (k n : Nat) :
    samplePoints w op k (n + 1) = samplePoints w op k n ++ if isSample w op (k + n) [] then [n] else [] := by
  rw [samplePoints, List.range_succ, List.filter_append, List.filter_singleton, cond_eq_ite]
  rfl

/-- The samples of the command `op` in progress, `n` ticks from now (R153). -/
def State.samplesAfter (s : State) (op : OwOp) (n : Nat) : List Bool :=
  s.ow.samples ++ (samplePoints s.cfg.convWaitUs op s.ow.k n).map s.envAt

theorem State.samplesAfter_zero (s : State) (op : OwOp) : s.samplesAfter op 0 = s.ow.samples := List.append_nil _

theorem State.samplesAfter_succ (s : State) (op : OwOp) (n : Nat) : s.samplesAfter op (n + 1) =
    s.samplesAfter op n ++ if isSample s.cfg.convWaitUs op (s.ow.k + n) [] then [s.envAt n] else [] := by
  rw [State.samplesAfter, samplePoints_succ, List.map_append, ← List.append_assoc, State.samplesAfter]
  split <;> rfl

/-- A further sample can bring the end nearer, and never puts it off (R205). -/
theorem duration_append_le (w : Nat) (op : OwOp) (ss l : List Bool) : duration w op (ss ++ l) ≤ duration w op ss := by
  cases op with
  | readTemp =>
    rw [duration_readTemp, duration_readTemp]
    match ss with
    | [] => split_ifs <;> simp_all
    | [s1] => cases s1 <;> simp; split_ifs <;> omega
    | s1 :: s2 :: _ => exact le_rfl
  | _ => exact le_rfl

theorem State.duration_samplesAfter_succ_le (s : State) (op : OwOp) (n : Nat) :
    duration s.cfg.convWaitUs op (s.samplesAfter op (n + 1)) ≤ duration s.cfg.convWaitUs op (s.samplesAfter op n) := by
  rw [State.samplesAfter_succ]
  exact duration_append_le ..

/-! ## What a completion changes (R155) -/

/-- The results of a command are written to the result registers, and nothing else is. -/
theorem Ow.results_eq (op : OwOp) (ss : List Bool) (u : Ow) : u.results op ss =
    { u with
      present := (u.results op ss).present
      noPres := (u.results op ss).noPres
      rx := (u.results op ss).rx
      tempRaw := (u.results op ss).tempRaw
      tempC := (u.results op ss).tempC } := by
  cases op with
  | readTemp =>
    rw [Ow.results, Ow.readTempResults]
    split <;> rfl
  | _ => rfl

theorem Ow.complete_k (op : OwOp) (u : Ow) : (u.complete op).k = u.k := by
  rw [Ow.complete, Ow.results_eq]
  rfl

theorem Ow.complete_samples (op : OwOp) (u : Ow) : (u.complete op).samples = u.samples := by
  rw [Ow.complete, Ow.results_eq]
  rfl

/-- Completion releases the line, whatever drove it. -/
theorem Ow.complete_of_eq_except_dir {op : OwOp} {u u' : Ow} (h : u' = { u with dir := u'.dir }) :
    u'.complete op = u.complete op := by
  rw [h]
  cases op with
  | readTemp =>
    rw [Ow.complete, Ow.complete, Ow.results, Ow.results, Ow.readTempResults, Ow.readTempResults]
    split <;> rfl
  | _ => rfl

/-! ## The unit while a command runs, and at its end (R153, R155) -/

/-- The unit `n` ticks on, where the command `op` is still in progress: only the offset, the samples and the line have
moved (R153). -/
def State.owAfter (s : State) (op : OwOp) (n : Nat) : Ow :=
  { s.ow with
    k := s.ow.k + n
    samples := s.samplesAfter op n
    dir := dir s.cfg.convWaitUs op s.ow.arg (s.ow.k + n) (s.samplesAfter op n) }

/-- A tick on schedule samples the level of the released line (R153, R176). -/
theorem State.nextSamples_owAfter (s : State) (op : OwOp) (n : Nat) :
    (s.owAfter op n).nextSamples s.cfg.convWaitUs op (s.envAt n) = s.samplesAfter op (n + 1) := by
  rw [State.samplesAfter_succ, Ow.nextSamples, State.owAfter]
  cases h : isSample s.cfg.convWaitUs op (s.ow.k + n) [] with
  | true =>
    rw [dir_of_isSample h]
    exact if_pos h
  | false =>
    rw [if_neg Bool.false_ne_true, List.append_nil]
    exact if_neg (ne_true_of_eq_false h)

section
variable {s : State} {op : OwOp} (hb : s.ow.busy = true) (ho : s.ow.op = some op)
  (hdir : s.ow.dir = dir s.cfg.convWaitUs op s.ow.arg s.ow.k s.ow.samples)
include hb ho

theorem State.tick_owAfter (n : Nat) : (s.owAfter op n).tick s.cfg.convWaitUs (s.envAt n) =
    if s.ow.k + n + 1 = duration s.cfg.convWaitUs op (s.samplesAfter op (n + 1))
    then ((s.owAfter op n).moved s.cfg.convWaitUs op (s.envAt n)).complete op
    else s.owAfter op (n + 1) := by
  rw [Ow.tick_running (u := s.owAfter op n) hb ho, Ow.run_eq, Ow.advance, Ow.moved, State.nextSamples_owAfter]
  rfl

include hdir

/-- Before the end, as the samples taken by then decide it, a command whose line is on schedule (`Ow.OnSchedule.on_line`)
is still in progress (R153). -/
theorem State.ticks_ow_running {n : Nat} (hn : s.ow.k + n < duration s.cfg.convWaitUs op (s.samplesAfter op n)) :
    (s.ticks n).ow = s.owAfter op n := by
  induction n with
  | zero =>
    rw [State.owAfter, State.samplesAfter_zero, Nat.add_zero, ← hdir]
    rfl
  | succ n ih =>
    have hle := s.duration_samplesAfter_succ_le op n
    rw [State.ticks_succ, State.tick_ow, ih (by omega), State.ticks_cfg, State.envAt_ticks, Nat.add_zero,
      State.tick_owAfter hb ho, if_neg (by omega)]

/-- The tick that reaches the end completes the command (R155). -/
theorem State.ticks_ow_complete {n : Nat} (hn : s.ow.k + n < duration s.cfg.convWaitUs op (s.samplesAfter op n))
    (hend : s.ow.k + n + 1 = duration s.cfg.convWaitUs op (s.samplesAfter op (n + 1))) :
    (s.ticks (n + 1)).ow =
      ({ s.ow with k := s.ow.k + n + 1, samples := s.samplesAfter op (n + 1) } : Ow).complete op := by
  rw [State.ticks_succ, State.tick_ow, State.ticks_ow_running hb ho hdir hn, State.ticks_cfg, State.envAt_ticks,
    Nat.add_zero, State.tick_owAfter hb ho, if_pos hend, Ow.moved, State.nextSamples_owAfter]
  exact Ow.complete_of_eq_except_dir rfl

end

/-! ## From the acceptance of a command of fixed duration (R151) -/

/-- The state after the acceptance of a timed command (R151). -/
def State.accepted (s : State) (op : OwOp) (arg : Byte) : State :=
  { s with ow := s.ow.acceptTimed s.cfg.convWaitUs op arg }

theorem State.issueTimed_idle {s : State} (op : OwOp) (arg : Byte) (h : s.ow.busy = false) :
    s.issueTimed op arg = .next (s.accepted op arg) := by
  rw [State.issueTimed, Ow.issueTimed_idle h, State.accepted]

theorem State.samplesAfter_accepted (s : State) (op : OwOp) (arg : Byte) (n : Nat) :
    (s.accepted op arg).samplesAfter op n = (samplePoints s.cfg.convWaitUs op 0 n).map s.envAt := List.nil_append _

section
variable (s : State) {op : OwOp} (arg : Byte) {N : Nat} (hN : ∀ ss, duration s.cfg.convWaitUs op ss = N)
include hN

/-- Before its end the unit is BUSY, the line is on its schedule, and no result register has changed (R153, R154). -/
theorem State.accepted_running {n : Nat} (hn : n < N) :
    ((s.accepted op arg).ticks n).ow.busy = true ∧
      (((s.accepted op arg).ticks n).drivesLow = true ↔ dir s.cfg.convWaitUs op arg n [] = .output) ∧
      ((s.accepted op arg).ticks n).ow.resultRegs = (s.accepted op arg).ow.resultRegs := by
  have hlt : (s.accepted op arg).ow.k + n < duration s.cfg.convWaitUs op ((s.accepted op arg).samplesAfter op n) := by
    rw [hN]
    exact (Nat.zero_add n).trans_lt hn
  rw [State.drivesLow, State.ticks_ow_running rfl rfl rfl hlt, Direction.bit_eq, decide_eq_true_iff]
  exact ⟨rfl, iff_of_eq (congrArg (dir s.cfg.convWaitUs op arg · [] = .output) (Nat.zero_add n)), rfl⟩

/-- At its end the command writes its results from the levels at its sample points (R155). -/
theorem State.accepted_complete : ((s.accepted op arg).ticks N).ow =
    ({ (s.accepted op arg).ow with
      k := N, samples := (samplePoints s.cfg.convWaitUs op 0 N).map s.envAt } : Ow).complete op := by
  obtain ⟨n, rfl⟩ : ∃ n, N = n + 1 := Nat.exists_eq_add_one.mpr (hN [] ▸ duration_pos _ op [])
  have hk : (s.accepted op arg).ow.k + n = n := Nat.zero_add n
  have hlt : (s.accepted op arg).ow.k + n < duration s.cfg.convWaitUs op ((s.accepted op arg).samplesAfter op n) := by
    rw [hN, hk]
    exact n.lt_succ_self
  have hend : (s.accepted op arg).ow.k + n + 1 =
      duration s.cfg.convWaitUs op ((s.accepted op arg).samplesAfter op (n + 1)) := by rw [hN, hk]
  rw [State.ticks_ow_complete rfl rfl rfl hlt hend, hk, State.samplesAfter_accepted]

end

end Sys2Proof.Machine

/-! PROOFS. The commands of the OW unit and its ticks (40_ow_primitives: R151, R153, R157–R159, R176). -/

namespace Sys2Proof.Machine

/-- Settles O17: an idle unit accepts (`State.issueTimed_idle`), and every command starts with the line low
(`dir_zero`). -/
theorem timedCommandsAccepted : Obligations.TimedCommandsAccepted := by
  intro s arg hb p hp
  have accept (op : OwOp) : s.issueTimed op arg = .next { s with ow := { s.ow with
      ctrlOp := op.code, ctrlArg := arg, done := false, noPres := false, cmdErr := false, k := 0, samples := [],
      op := some op, arg := arg, busy := true, dir := .output } } := by
    rw [State.issueTimed_idle op arg hb, State.accepted, Ow.acceptTimed, dir_zero]
    rfl
  simp only [List.mem_cons, List.not_mem_nil, or_false] at hp
  obtain rfl | rfl | rfl | rfl | rfl | rfl := hp <;> exact accept _

/-- Settles O20: the timebase's action is one tick (`State.timebase_eq`), in which a running unit moves on or completes
(`Ow.run_eq`). -/
theorem tickStepIsR153 : Obligations.TickStepIsR153 := by
  intro s ha
  refine ⟨s.popped.tick, ?_, rfl, rfl, rfl, rfl, rfl, s.popped.envAt_tick, Ow.tick_idle, fun op hb ho => ?_⟩
  · rw [step, ha, State.act, State.timebase_eq]
  · rw [State.tick_ow, Ow.tick_running (u := s.popped.ow) hb ho, Ow.run_eq, Ow.advance, Ow.moved, Ow.nextSamples,
      lineLevel_eq]
    rfl

/-- A command sent to a register while the OW unit is BUSY leaves the unit, or is rejected by it (R40, R239). -/
theorem exec_host_ow_of_busy {i : Instr} {s t : State} (hi : i.target ≠ .bus) (hb : s.ow.busy = true)
    (h : exec i s = .next t) : t.ow = s.ow ∨ t.ow = s.ow.reject := by
  cases ht : i.target with
  | owCtrl =>
    cases (exec_owCtrl_busy ht hb).symm.trans h
    exact .inr rfl
  | thCtrl =>
    obtain ⟨th, draws, rfl⟩ := exec_thCtrl_next ht h
    exact .inl rfl
  | bus => exact absurd ht hi

/-- A host write that meets a BUSY unit leaves it, or is rejected by it (R40, R157). -/
theorem State.hostWrite_ow_of_busy {s t : State} {addr : Nat} {width : AccessWidth} {w : Word} (hb : s.ow.busy = true)
    (h : s.hostWrite addr width w = .next t) : t.ow = s.ow ∨ t.ow = s.ow.reject := by
  obtain ⟨off, -, ⟨-, rfl⟩ | ⟨tg, htg, ⟨i, hi, he⟩ | ⟨-, rfl⟩⟩⟩ := State.hostWrite_next h
  · exact .inl rfl
  · exact exec_host_ow_of_busy (decode_target hi ▸ commandTarget_ne_bus htg) hb he
  · cases tg with
    | owCtrl => exact .inr rfl
    | thCtrl => exact .inl rfl
    | bus => exact .inl rfl

theorem State.hostTest_ow (s : State) (mask value : Word) : (s.hostTest mask value).ow = s.ow := by
  unfold State.hostTest
  split <;> rfl

/-- Whatever the step but reset, a BUSY unit sees a tick, a rejection, or nothing (R157). -/
theorem step_ow_of_busy {s t : State} (hb : s.ow.busy = true) (ha : s.nextAction ≠ .reset) (h : step s = .next t) :
    (t.ow = s.ow.tick s.cfg.convWaitUs (s.envAt 0) ∧ t.now = s.now + 1) ∨ t.ow = s.ow ∨ t.ow = s.ow.reject := by
  unfold step at h
  cases hact : s.nextAction with
  | tick =>
    rw [hact, State.act, State.timebase_eq] at h
    cases h
    exact .inl ⟨rfl, rfl⟩
  | reset => exact absurd hact ha
  | read addr width =>
    rw [hact] at h
    obtain ⟨off, -, rfl⟩ := State.hostRead_next h
    exact .inr (.inl rfl)
  | write addr width w =>
    rw [hact] at h
    exact .inr (State.hostWrite_ow_of_busy (s := s.popped) hb h)
  | poll addr width mask value =>
    rw [hact] at h
    obtain rfl | hp := State.hostPoll_next h
    · exact .inr (.inl rfl)
    · rw [State.timebase_eq] at hp
      cases hp
      exact .inl ⟨rfl, rfl⟩
  | failUnless mask value =>
    rw [hact, State.act] at h
    cases h
    exact .inr (.inl (s.popped.hostTest_ow mask value))

/-- Settles O19: what a step can do to a BUSY unit (`step_ow_of_busy`); a tick moves the command on or, at its end,
completes it (`Ow.run_eq`). -/
theorem onlyResetStopsACommand : Obligations.OnlyResetStopsACommand := by
  intro s t op hb ho ha h
  obtain ⟨how, hnow⟩ | how | how := step_ow_of_busy hb ha h
  · refine ⟨?_, fun h => absurd (hnow.symm.trans h) (Nat.succ_ne_self _)⟩
    rw [how, Ow.tick_running hb ho, Ow.run_eq]
    split
    · rename_i hend
      right
      rw [Ow.complete_k, Ow.complete_samples]
      exact ⟨rfl, rfl, rfl, hend⟩
    · left
      exact ⟨hb, ho, rfl, rfl, rfl, Nat.le_succ _, le_rfl⟩
  · rw [how]
    exact ⟨.inl ⟨hb, ho, rfl, rfl, rfl, le_rfl, Nat.le_succ _⟩, fun _ => .inl rfl⟩
  · rw [how]
    exact ⟨.inl ⟨hb, ho, rfl, rfl, rfl, le_rfl, Nat.le_succ _⟩, fun _ => .inr rfl⟩

theorem State.ticks_ow_idle {s : State} (hb : s.ow.busy = false) (n : Nat) : (s.ticks n).ow = s.ow := by
  induction n with
  | zero => rfl
  | succ n ih => rw [State.ticks_succ, State.tick_ow, ih, Ow.tick_idle hb]

/-- Settles O23, by induction on the ticks (`State.ticks_ow_idle`). -/
theorem idleUnitHoldsTheLine : Obligations.IdleUnitHoldsTheLine := fun _ n hb =>
  ⟨State.ticks_ow_idle hb n, congrArg (fun u : Ow => u.dir.bit) (State.ticks_ow_idle hb n)⟩

/-- Settles O25: the line is released at every sample point (`dir_of_isSample`), and each command's sample points before
its end are the listed ones. -/
theorem samplesOnlyOnReleasedLine : Obligations.SamplesOnlyOnReleasedLine := by
  intro w op arg k ss hk h
  refine ⟨dir_of_isSample h arg ss, ?_⟩
  cases op with
  | reset => exact .inl ⟨rfl, (resetSampleAt_iff k).mp h⟩
  | writeBit => cases h
  | readBit => exact .inr (.inl ⟨rfl, (readSampleAt_iff k).mp h⟩)
  | writeByte => cases h
  | readByte =>
    have hmod := (readByteSampleAt_iff k).mp h
    rw [duration_readByte] at hk
    exact .inr (.inr (.inl ⟨rfl, k / 70, by omega, by omega⟩))
  | readTemp =>
    refine .inr (.inr (.inr ⟨rfl, ?_⟩))
    obtain hk | hk | ⟨h1, h2, hmod⟩ := (readTempPhase_sampleAt_iff w k).mp h
    · exact .inl hk
    · exact .inr (.inl hk)
    · exact .inr (.inr ⟨(k - (2080 + w + 2080)) / 70, by omega, by omega⟩)

end Sys2Proof.Machine

/-! PROOFS. The slot commands from their acceptance to their end (40_ow_primitives sections 3–5). -/

namespace Sys2Proof.Machine

/-! ## Sample points of the commands of fixed duration (R163, R169, R175) -/

theorem filter_range_eq_singleton {p : Nat → Bool} {c n : Nat} (hc : c < n) (hp : ∀ i < n, p i = true ↔ i = c) :
    (List.range n).filter p = [c] := by
  have hpc : (List.range n).filter p = (List.range n).filter (· == c) :=
    List.filter_congr fun i hi => by rw [Bool.eq_iff_iff, hp i (List.mem_range.mp hi), beq_iff_eq]
  rw [hpc, List.filter_beq, List.count_eq_one_of_mem List.nodup_range (List.mem_range.mpr hc)]
  rfl

theorem samplePoints_reset (w : Nat) : samplePoints w .reset 0 960 = [550] :=
  filter_range_eq_singleton (by decide) fun i _ => by rw [Nat.zero_add]; exact resetSampleAt_iff i

theorem samplePoints_readBit (w : Nat) : samplePoints w .readBit 0 70 = [15] :=
  filter_range_eq_singleton (by decide) fun i _ => by rw [Nat.zero_add]; exact readSampleAt_iff i

theorem samplePoints_readByte (w m : Nat) :
    samplePoints w .readByte 0 (70 * m) = (List.range m).map (70 * · + 15) := by
  induction m with
  | zero => rfl
  | succ m ih =>
    have hslot : (List.range 70).filter ((fun i => isSample w .readByte (0 + i) []) ∘ (70 * m + ·)) = [15] :=
      filter_range_eq_singleton (by decide) fun i hi => (readByteSampleAt_iff (0 + (70 * m + i))).trans (by omega)
    rw [samplePoints] at ih ⊢
    rw [Nat.mul_succ, List.range_add, List.filter_append, ih, List.filter_map, hslot, List.range_succ, List.map_append]
    rfl

/-- The write commands take no sample (R166, R172). -/
theorem samplePoints_eq_nil {w : Nat} {op : OwOp} (h : ∀ k, isSample w op k [] = false) (k n : Nat) :
    samplePoints w op k n = [] := by
  simp [samplePoints, h]

/-! ## Bytes from samples (R87, R174) -/

theorem testBit_natOfBits (bs : List Bool) (i : Nat) : (natOfBits bs).testBit i = bs.getD i false := by
  induction bs generalizing i with
  | nil => simp [natOfBits]
  | cons b bs ih =>
    cases i with
    | zero => cases b <;> simp [natOfBits, Nat.testBit_zero]
    | succ i =>
      have hdiv : (b.toNat + 2 * natOfBits bs) / 2 = natOfBits bs := by cases b <;> simp; omega
      rw [natOfBits, Nat.testBit_succ, hdiv, ih]
      rfl

theorem getLsbD_byteOfSamples (start : Nat) (ss : List Bool) {i : Nat} (hi : i < 8) :
    (byteOfSamples start ss).getLsbD i = ss.getD (start + i) false := by
  rw [byteOfSamples, BitVec.getLsbD_ofNat, decide_eq_true hi, Bool.true_and, testBit_natOfBits]
  simp [List.getD, hi]

/-! ## The obligations -/

/-- Settles O27: the run of a command of fixed duration (`State.accepted_running`, `State.accepted_complete`), whose one
sample is at 550. -/
theorem resetSlotDetectsPresence : Obligations.ResetSlotDetectsPresence := by
  intro s arg hb
  refine ⟨_, State.issueTimed_idle .reset arg hb, fun n hn => ?_, ?_⟩
  · obtain ⟨hbusy, hline, hregs⟩ := State.accepted_running s arg (duration_reset s.cfg.convWaitUs) hn
    exact ⟨hbusy, hline.trans (lowFor_eq_output_iff 480 n), hregs⟩
  · rw [State.accepted_complete s arg (duration_reset s.cfg.convWaitUs), samplePoints_reset]
    rfl

/-- Settles O28: a run without samples, whose line is the write slot of the bit. -/
theorem writeBitDrivesItsSlot : Obligations.WriteBitDrivesItsSlot := by
  intro s arg hb
  refine ⟨_, State.issueTimed_idle .writeBit arg hb, fun n hn => ?_, ?_⟩
  · obtain ⟨hbusy, hline, -⟩ := State.accepted_running s arg (duration_writeBit s.cfg.convWaitUs) hn
    exact ⟨hbusy, hline.trans (lowFor_eq_output_iff _ n)⟩
  · rw [State.accepted_complete s arg (duration_writeBit s.cfg.convWaitUs), samplePoints_eq_nil fun _ => rfl]
    rfl

/-- Settles O29: a run whose one sample is at 15; RX is that level as a byte. -/
theorem readBitReadsOffset15 : Obligations.ReadBitReadsOffset15 := by
  intro s arg hb
  refine ⟨_, State.issueTimed_idle .readBit arg hb, fun n hn => ?_, ?_⟩
  · obtain ⟨hbusy, hline, hregs⟩ := State.accepted_running s arg (duration_readBit s.cfg.convWaitUs) hn
    exact ⟨hbusy, hline.trans (lowFor_eq_output_iff 6 n), hregs⟩
  · have hrx (b : Bool) : (BitVec.ofBool b).setWidth 8 = if b then 1 else 0 := by cases b <;> rfl
    rw [State.accepted_complete s arg (duration_readBit s.cfg.convWaitUs), samplePoints_readBit, ← hrx]
    rfl

/-- Settles O30: a run without samples, whose line is the eight write slots of the byte. -/
theorem writeByteSendsLsbFirst : Obligations.WriteByteSendsLsbFirst := by
  intro s v hb
  refine ⟨_, State.issueTimed_idle .writeByte v hb, fun n hn => ?_, ?_⟩
  · obtain ⟨hbusy, hline, -⟩ := State.accepted_running s v (duration_writeByte s.cfg.convWaitUs) hn
    exact ⟨hbusy, hline.trans (writeByteDir_eq_output_iff v n)⟩
  · rw [State.accepted_complete s v (duration_writeByte s.cfg.convWaitUs), samplePoints_eq_nil fun _ => rfl]
    rfl

/-- Settles O31: a run with one sample in each of its eight slots (`samplePoints_readByte`), whose bits are those of RX
(`getLsbD_byteOfSamples`). -/
theorem readByteReceivesLsbFirst : Obligations.ReadByteReceivesLsbFirst := by
  intro s arg hb
  have hend := State.accepted_complete s arg (duration_readByte s.cfg.convWaitUs)
  rw [samplePoints_readByte _ 8, List.map_map] at hend
  refine ⟨_, State.issueTimed_idle .readByte arg hb, fun n hn => ?_, ?_, fun i hi => ?_⟩
  · obtain ⟨hbusy, hline, hregs⟩ := State.accepted_running s arg (duration_readByte s.cfg.convWaitUs) hn
    exact ⟨hbusy, hline.trans (lowFor_eq_output_iff 6 (n % 70)), hregs⟩
  · rw [hend]
    rfl
  · rw [hend]
    refine (getLsbD_byteOfSamples 0 _ hi).trans ?_
    simp [List.getD, hi]

/-- Settles O32: bit `i` of RX is the level at the sample of slot `i` (`readByteReceivesLsbFirst`), and the line was
released 15 ticks into write slot `i` exactly where bit `i` of `v` is 1 (`writeByteSendsLsbFirst`). -/
theorem loopbackReturnsTheByte : Obligations.LoopbackReturnsTheByte := by
  intro s t r v arg hb ht hr hbus
  obtain ⟨t', ht', hsent, hidle⟩ := writeByteSendsLsbFirst s v hb
  cases ht.symm.trans ht'
  have hb' : (t.ticks 560).ow.busy = false := by rw [hidle]
  obtain ⟨r', hr', -, hdone, hrx⟩ := readByteReceivesLsbFirst (t.ticks 560) arg hb'
  cases hr.symm.trans hr'
  obtain ⟨u, rfl⟩ := exec_owCtrl_next rfl hr
  refine ⟨by rw [hdone], by rw [hdone], BitVec.eq_of_getLsbD_eq fun i hi => ?_⟩
  obtain ⟨-, hlow⟩ := hsent (70 * i + 15) (by omega)
  rw [hrx i hi, ← State.envAt_ow _ u, hbus i hi, Bool.not_eq_eq_eq_not, Bool.eq_iff_iff, hlow,
    show (70 * i + 15) / 70 = i by omega]
  cases v.getLsbD i <;> simp

end Sys2Proof.Machine

/-! SUPPORT. A command from its acceptance to an end that its samples decide (R151–R155). -/

namespace Sys2Proof.Machine

/-- As the samples come in, the end comes nearer at most. -/
theorem State.duration_samplesAfter_antitone (s : State) (op : OwOp) :
    Antitone fun n => duration s.cfg.convWaitUs op (s.samplesAfter op n) :=
  antitone_nat_of_succ_le (s.duration_samplesAfter_succ_le op)

theorem State.accepted_noPres (s : State) (op : OwOp) (arg : Byte) : (s.accepted op arg).ow.noPres = false := rfl

/-- What a command accepted now samples during its first `n` ticks (R152, R153). -/
def State.samplesFrom (s : State) (op : OwOp) (n : Nat) : List Bool :=
  (samplePoints s.cfg.convWaitUs op 0 n).map s.envAt

section
variable (s : State) {op : OwOp} (arg : Byte) {N : Nat} (hN : duration s.cfg.convWaitUs op (s.samplesFrom op N) = N)
include hN

/-- Before its end the command is in progress. -/
theorem State.accepted_ow_before_end {n : Nat} (hn : n < N) :
    ((s.accepted op arg).ticks n).ow = (s.accepted op arg).owAfter op n := by
  have hle : N ≤ duration s.cfg.convWaitUs op ((s.accepted op arg).samplesAfter op n) :=
    hN.symm.trans_le ((s.accepted op arg).duration_samplesAfter_antitone op hn.le)
  exact State.ticks_ow_running rfl rfl rfl ((Nat.zero_add n).trans_lt (hn.trans_le hle))

/-- Before its end the unit is BUSY and the line is on the command's schedule (R153, R154). -/
theorem State.accepted_line_before_end {n : Nat} (hn : n < N) :
    ((s.accepted op arg).ticks n).ow.busy = true ∧
      (((s.accepted op arg).ticks n).drivesLow = true ↔ dir s.cfg.convWaitUs op arg n [] = .output) := by
  rw [State.drivesLow, s.accepted_ow_before_end arg hN hn, Direction.bit_eq, decide_eq_true_iff]
  exact ⟨rfl, iff_of_eq (congrArg (dir s.cfg.convWaitUs op arg · [] = .output) (Nat.zero_add n))⟩

/-- At its end the command writes its results from the levels at its sample points (R155). -/
theorem State.accepted_ow_end : ((s.accepted op arg).ticks N).ow =
    ({ (s.accepted op arg).ow with k := N, samples := s.samplesFrom op N } : Ow).complete op := by
  obtain ⟨n, rfl⟩ : ∃ n, N = n + 1 := Nat.exists_eq_add_one.mpr (hN ▸ duration_pos _ op _)
  have hk : (s.accepted op arg).ow.k + n = n := Nat.zero_add n
  have hle := (s.accepted op arg).duration_samplesAfter_succ_le op n
  rw [State.samplesAfter_accepted] at hle
  have hend : n + 1 ≤ duration s.cfg.convWaitUs op ((s.accepted op arg).samplesAfter op n) := hN.symm.trans_le hle
  rw [State.ticks_ow_complete rfl rfl rfl (hk.trans_lt hend) (by rw [hk]; exact hN.symm), hk,
    State.samplesAfter_accepted]
  rfl

/-- After its end the unit is idle, and stays as the completion left it (R159). -/
theorem State.accepted_ow_after_end {n : Nat} (hn : N ≤ n) : ((s.accepted op arg).ticks n).ow =
    ({ (s.accepted op arg).ow with k := N, samples := s.samplesFrom op N } : Ow).complete op := by
  obtain ⟨m, rfl⟩ := Nat.exists_eq_add_of_le hn
  have hend := s.accepted_ow_end arg hN
  rw [State.ticks_add, State.ticks_ow_idle (by rw [hend]; rfl), hend]

end

end Sys2Proof.Machine

/-! SUPPORT. The schedule and the results of OW_READ_TEMP (R201–R205). -/

namespace Sys2Proof.Machine

/-! ## The line (R203, R205) -/

theorem byteLow_iff (v : Byte) (start n : Nat) :
    byteLow v start n ↔ (start ≤ n ∧ n < start + 560) ∧ writeByteDir v (n - start) = .output := by
  rw [byteLow, writeByteDir_eq_output_iff, and_assoc]

theorem resetDir_eq_output_iff (j : Nat) : resetDir j = .output ↔ j < 480 := lowFor_eq_output_iff 480 j

theorem readByteDir_eq_output_iff (j : Nat) : readByteDir j = .output ↔ j % 70 < 6 := lowFor_eq_output_iff 6 (j % 70)

/-- The offsets at which OW_READ_TEMP has the line low (R205). -/
theorem readTempPhase_dir_eq_output_iff (w n : Nat) : (readTempPhase w n).dir = .output ↔
    n < 480 ∨ byteLow 0xCC#8 960 n ∨ byteLow 0x44#8 1520 n ∨ (2080 + w ≤ n ∧ n < 2080 + w + 480) ∨
      byteLow 0xCC#8 (2080 + w + 960) n ∨ byteLow 0xBE#8 (2080 + w + 1520) n ∨
      (2080 + w + 2080 ≤ n ∧ n < 2080 + w + 3200 ∧ (n - (2080 + w + 2080)) % 70 < 6) := by
  simp only [byteLow_iff, readTempPhase_eq]
  split_ifs <;> simp only [Phase.dir, resetDir_eq_output_iff, readByteDir_eq_output_iff] <;> grind

/-- The line is released during the conversion wait, and low at its end (R203, R205). -/
theorem readTemp_dir_wait {w m : Nat} (hm : m ≤ w) (arg : Byte) (ss : List Bool) :
    dir w .readTemp arg (2080 + m) ss = if m < w then .input else .output := by
  rw [dir, readTempPhase_eq, if_neg (by omega), if_neg (by omega), if_neg (by omega)]
  obtain hlt | rfl := hm.lt_or_eq
  · rw [if_pos (by omega), if_pos hlt]
    rfl
  · rw [if_neg (by omega), if_pos (by omega), Nat.sub_self, if_neg (lt_irrefl m)]
    rfl

/-! ## The sample points (R205) -/

/-- The sample points of OW_READ_TEMP before `n` are the increasing list of the offsets where a phase samples. -/
theorem samplePoints_readTemp {w n : Nat} {l : List Nat} (hl : l.Pairwise (· < ·)) (hmem : ∀ i, i ∈ l ↔ i < n ∧
    (i = 550 ∨ i = 2080 + w + 550 ∨
      2080 + w + 2080 ≤ i ∧ i < 2080 + w + 3200 ∧ (i - (2080 + w + 2080)) % 70 = 15)) :
    samplePoints w .readTemp 0 n = l := by
  refine (List.pairwise_lt_range.filter _).eq_of_mem_iff hl fun i => ?_
  rw [List.mem_filter, List.mem_range, hmem, Nat.zero_add, isSample, readTempPhase_sampleAt_iff]

theorem samplePoints_readTemp_firstReset (w : Nat) : samplePoints w .readTemp 0 960 = [550] := by
  refine samplePoints_readTemp (List.pairwise_singleton ..) fun i => ?_
  rw [List.mem_singleton]
  omega

theorem samplePoints_readTemp_secondReset (w : Nat) :
    samplePoints w .readTemp 0 (2080 + w + 960) = [550, 2080 + w + 550] := by
  refine samplePoints_readTemp (List.pairwise_pair.mpr (by omega)) fun i => ?_
  rw [List.mem_pair]
  omega

theorem samplePoints_readTemp_whole (w : Nat) : samplePoints w .readTemp 0 (2080 + w + 3200) =
    550 :: (2080 + w + 550) :: (List.range 16).map (2080 + w + 2080 + 70 * · + 15) := by
  refine samplePoints_readTemp ?_ fun i => ?_
  · have hbits : ((List.range 16).map (2080 + w + 2080 + 70 * · + 15)).Pairwise (· < ·) :=
      List.pairwise_map.mpr (List.pairwise_lt_range.imp fun h => by omega)
    simp only [List.pairwise_cons, List.mem_cons, List.mem_map]
    refine ⟨?_, ?_, hbits⟩
    · rintro a (rfl | ⟨j, -, rfl⟩) <;> omega
    · rintro a ⟨j, -, rfl⟩
      omega
  · simp only [List.mem_cons, List.mem_map, List.mem_range]
    constructor
    · rintro (rfl | rfl | ⟨j, hj, rfl⟩) <;> omega
    · rintro ⟨-, h | h | ⟨h1, h2, h3⟩⟩
      · exact .inl h
      · exact .inr (.inl h)
      · exact .inr (.inr ⟨(i - (2080 + w + 2080)) / 70, by omega, by omega⟩)

/-- During the conversion wait nothing is sampled (R203). -/
theorem samplePoints_readTemp_wait {w n : Nat} (hn : n ≤ w) : samplePoints w .readTemp 2080 n = [] := by
  refine List.filter_eq_nil_iff.mpr fun i hi => ?_
  rw [List.mem_range] at hi
  rw [isSample, readTempPhase_sampleAt_iff]
  omega

/-! ## The samples at each of the three ends, and that the command ends there (R201, R202) -/

theorem State.samplesFrom_firstReset (s : State) : s.samplesFrom .readTemp 960 = [s.envAt 550] := by
  rw [State.samplesFrom, samplePoints_readTemp_firstReset]
  rfl

theorem State.samplesFrom_secondReset (s : State) : s.samplesFrom .readTemp (2080 + s.cfg.convWaitUs + 960) =
    [s.envAt 550, s.envAt (2080 + s.cfg.convWaitUs + 550)] := by
  rw [State.samplesFrom, samplePoints_readTemp_secondReset]
  rfl

theorem State.samplesFrom_whole (s : State) : s.samplesFrom .readTemp (2080 + s.cfg.convWaitUs + 3200) =
    s.envAt 550 :: s.envAt (2080 + s.cfg.convWaitUs + 550) ::
      (List.range 16).map fun i => s.envAt (2080 + s.cfg.convWaitUs + 2080 + 70 * i + 15) := by
  rw [State.samplesFrom, samplePoints_readTemp_whole, List.map_cons, List.map_cons, List.map_map]
  rfl

theorem State.readTemp_end_firstReset {s : State} (h1 : s.envAt 550 = true) :
    duration s.cfg.convWaitUs .readTemp (s.samplesFrom .readTemp 960) = 960 := by
  rw [State.samplesFrom_firstReset, h1, duration_readTemp, if_pos List.getElem?_cons_zero]

theorem State.readTemp_end_secondReset {s : State} (h1 : s.envAt 550 = false)
    (h2 : s.envAt (2080 + s.cfg.convWaitUs + 550) = true) :
    duration s.cfg.convWaitUs .readTemp (s.samplesFrom .readTemp (2080 + s.cfg.convWaitUs + 960)) =
      2080 + s.cfg.convWaitUs + 960 := by
  rw [State.samplesFrom_secondReset, h1, h2, duration_readTemp, if_neg (by simp), if_pos (by simp)]

theorem State.readTemp_end_success {s : State} (h1 : s.envAt 550 = false)
    (h2 : s.envAt (2080 + s.cfg.convWaitUs + 550) = false) :
    duration s.cfg.convWaitUs .readTemp (s.samplesFrom .readTemp (2080 + s.cfg.convWaitUs + 3200)) =
      2080 + s.cfg.convWaitUs + 3200 := by
  rw [State.samplesFrom_whole, h1, h2, duration_readTemp, if_neg (by simp), if_neg (by simp)]

/-- Whatever the levels, OW_READ_TEMP ends, by B + 3200. -/
theorem State.exists_readTemp_end (s : State) : ∃ N ≤ 2080 + s.cfg.convWaitUs + 3200,
    duration s.cfg.convWaitUs .readTemp (s.samplesFrom .readTemp N) = N := by
  cases h1 : s.envAt 550 with
  | true => exact ⟨_, by omega, State.readTemp_end_firstReset h1⟩
  | false =>
    cases h2 : s.envAt (2080 + s.cfg.convWaitUs + 550) with
    | true => exact ⟨_, by omega, State.readTemp_end_secondReset h1 h2⟩
    | false => exact ⟨_, le_rfl, State.readTemp_end_success h1 h2⟩

/-- Levels that agree at the 18 offsets give the same samples (R210). -/
theorem State.samplesFrom_congr {s s' : State} (hw : s.cfg.convWaitUs = s'.cfg.convWaitUs)
    (h : ∀ k, (k = 550 ∨ k = 2080 + s.cfg.convWaitUs + 550 ∨
      ∃ i, i < 16 ∧ k = 2080 + s.cfg.convWaitUs + 2080 + 70 * i + 15) → s.envAt k = s'.envAt k) (n : Nat) :
    s.samplesFrom .readTemp n = s'.samplesFrom .readTemp n := by
  rw [State.samplesFrom, State.samplesFrom, ← hw]
  refine List.map_congr_left fun k hk => h k ?_
  rw [samplePoints, List.mem_filter, Nat.zero_add, isSample, readTempPhase_sampleAt_iff] at hk
  obtain ⟨-, hk | hk | ⟨h1, h2, hmod⟩⟩ := hk
  · exact .inl hk
  · exact .inr (.inl hk)
  · exact .inr (.inr ⟨(k - (2080 + s.cfg.convWaitUs + 2080)) / 70, by omega, by omega⟩)

/-! ## The results (R201, R202, R204) -/

theorem Ow.complete_readTemp_noPresence {u : Ow} (h : (sampleAt u.samples 0 || sampleAt u.samples 1) = true) :
    u.complete .readTemp = { u with
      dir := .input, op := none, busy := false, done := true, present := false, noPres := true, tempC := sentinel } := by
  rw [Ow.complete, Ow.results, Ow.readTempResults, if_pos h]
  rfl

/-- The scratchpad word of the samples (R204). -/
def scratchpadWord (ss : List Bool) : BitVec 16 := rawTemp (byteOfSamples 2 ss) (byteOfSamples 10 ss)

theorem Ow.complete_readTemp_presence {u : Ow} (h : (sampleAt u.samples 0 || sampleAt u.samples 1) = false) :
    u.complete .readTemp = { u with
      dir := .input, op := none, busy := false, done := true, present := true,
      tempRaw := sext32 (scratchpadWord u.samples), tempC := tempBits (scratchpadWord u.samples) } := by
  rw [Ow.complete, Ow.results, Ow.readTempResults, if_neg (ne_true_of_eq_false h)]
  rfl

/-- Of the unit that completes, the results use the samples alone, but NOPRES is kept where presence was seen (R210). -/
theorem Ow.complete_readTemp_congr {u u' : Ow} (hs : u.samples = u'.samples) (hn : u.noPres = u'.noPres) :
    (u.complete .readTemp).tempC = (u'.complete .readTemp).tempC ∧
      (u.complete .readTemp).present = (u'.complete .readTemp).present ∧
      (u.complete .readTemp).noPres = (u'.complete .readTemp).noPres ∧
      ((u.complete .readTemp).present = true → (u.complete .readTemp).tempRaw = (u'.complete .readTemp).tempRaw) := by
  cases hp : sampleAt u.samples 0 || sampleAt u.samples 1 with
  | true =>
    rw [Ow.complete_readTemp_noPresence hp, Ow.complete_readTemp_noPresence (hs ▸ hp)]
    exact ⟨rfl, rfl, rfl, fun h => nomatch h⟩
  | false =>
    rw [Ow.complete_readTemp_presence hp, Ow.complete_readTemp_presence (hs ▸ hp), hs]
    exact ⟨rfl, rfl, hn, fun _ => rfl⟩

/-- Samples 2 to 9 are the LSB and 10 to 17 the MSB (R204, R205). -/
theorem scratchpadWord_cons (s1 s2 : Bool) (level : Nat → Bool) :
    scratchpadWord (s1 :: s2 :: (List.range 16).map level) =
      BitVec.ofNat 8 (natOfBits ((List.range 8).map fun i => level (8 + i))) ++
        BitVec.ofNat 8 (natOfBits ((List.range 8).map level)) := rfl

/-- The bytes on the line during the two OW_READ_BYTE pieces are the scratchpad word (R205, R208). -/
theorem State.scratchpadWord_samplesFrom (s : State) :
    scratchpadWord (s.samplesFrom .readTemp (2080 + s.cfg.convWaitUs + 3200)) =
      s.byteOnLine (2080 + s.cfg.convWaitUs + 2640) ++ s.byteOnLine (2080 + s.cfg.convWaitUs + 2080) := by
  have hmsb : s.byteOnLine (2080 + s.cfg.convWaitUs + 2640) = BitVec.ofNat 8 (natOfBits ((List.range 8).map fun i =>
      s.envAt (2080 + s.cfg.convWaitUs + 2080 + 70 * (8 + i) + 15))) := by
    have hoff (i : Nat) : 2080 + s.cfg.convWaitUs + 2640 + 70 * i + 15 =
        2080 + s.cfg.convWaitUs + 2080 + 70 * (8 + i) + 15 := by omega
    simp only [State.byteOnLine, hoff]
  rw [State.samplesFrom_whole, scratchpadWord_cons, hmsb]
  rfl

end Sys2Proof.Machine

/-! PROOFS. OW_READ_TEMP from its acceptance to its end (41_ow_sequencer: R201–R205, R208–R210). -/

namespace Sys2Proof.Machine

/-- Settles O33: the one sample before 960 is the first reset's, and a 1 there is the end (`readTemp_end_firstReset`). -/
theorem readTempFailsAtFirstReset : Obligations.ReadTempFailsAtFirstReset := by
  intro s arg hb h1
  have hN := State.readTemp_end_firstReset h1
  refine ⟨_, State.issueTimed_idle .readTemp arg hb, fun n hn => ?_, ?_⟩
  · obtain ⟨hbusy, hline⟩ := s.accepted_line_before_end arg hN hn
    refine ⟨hbusy, hline.trans ?_⟩
    rw [dir, readTempPhase_eq, if_pos hn]
    exact resetDir_eq_output_iff n
  · rw [s.accepted_ow_end arg hN, State.samplesFrom_firstReset, h1, Ow.complete_readTemp_noPresence rfl]
    rfl

/-- Settles O34: before B + 960 the two resets are sampled, and 0 and then 1 is the end (`readTemp_end_secondReset`). -/
theorem readTempFailsAtSecondReset : Obligations.ReadTempFailsAtSecondReset := by
  intro s arg hb h1 h2
  have hN := State.readTemp_end_secondReset h1 h2
  refine ⟨_, State.issueTimed_idle .readTemp arg hb, fun n hn => ?_, ?_⟩
  · obtain ⟨hbusy, hline⟩ := s.accepted_line_before_end arg hN hn
    refine ⟨hbusy, hline.trans ((readTempPhase_dir_eq_output_iff _ n).trans ?_)⟩
    simp only [byteLow]
    omega
  · rw [s.accepted_ow_end arg hN, State.samplesFrom_secondReset, h1, h2, Ow.complete_readTemp_noPresence rfl]
    rfl

/-- Settles O35: two zeros put the end at B + 3200 (`readTemp_end_success`), where the other 16 samples are the word
(`scratchpadWord_samplesFrom`), whose sixteenth is exact (`tempBitsAreExact`). -/
theorem readTempSucceeds : Obligations.ReadTempSucceeds := by
  intro s arg hb h1 h2
  have hN := State.readTemp_end_success h1 h2
  have hend := s.accepted_ow_end arg hN
  rw [Ow.complete_readTemp_presence (by rw [State.samplesFrom_whole, h1, h2]; rfl)] at hend
  simp only [State.scratchpadWord_samplesFrom, sext32] at hend
  refine ⟨_, State.issueTimed_idle .readTemp arg hb, fun n hn => ?_, ?_, ?_, ?_, ?_, fun hraw => ?_⟩
  · obtain ⟨hbusy, hline⟩ := s.accepted_line_before_end arg hN hn
    refine ⟨hbusy, hline.trans ((readTempPhase_dir_eq_output_iff _ n).trans ?_)⟩
    simp only [hn, true_and]
  · rw [hend]
  · rw [hend, State.samplesFrom_whole, List.length_cons, List.length_cons, List.length_map, List.length_range]
  · rw [hend]
    exact (tempBitsAreExact.1 _).1
  · rw [hend]
    exact (tempBitsAreExact.1 _).2
  · rw [hend]
    exact (congrArg tempBits hraw).trans tempBitsAreExact.2

/-- Settles O36: with no sample in the wait (`samplePoints_readTemp_wait`) the end stays at B + 3200, and the unit is on
its schedule (`State.ticks_ow_running`), which is released to the second reset (`readTemp_dir_wait`). -/
theorem conversionWaitIsExact : Obligations.ConversionWaitIsExact := by
  intro s hb ho hk hss hdir hw n hn
  have hsamples : s.samplesAfter .readTemp n = [false] := by
    rw [State.samplesAfter, hk, samplePoints_readTemp_wait hn, hss]
    rfl
  have hline {m : Nat} (hm : m ≤ s.cfg.convWaitUs) : dir s.cfg.convWaitUs .readTemp s.ow.arg (2080 + m) [false] =
      if m < s.cfg.convWaitUs then .input else .output := readTemp_dir_wait hm _ _
  have hlt : s.ow.k + n < duration s.cfg.convWaitUs .readTemp (s.samplesAfter .readTemp n) := by
    rw [hk, hsamples, duration_readTemp, if_neg (by simp), if_neg (by simp)]
    omega
  have hstart : s.ow.dir = dir s.cfg.convWaitUs .readTemp s.ow.arg s.ow.k s.ow.samples := by
    rw [hdir, hk, hss]
    exact ((hline hw.le).trans (if_pos hw)).symm
  rw [State.ticks_ow_running hb ho hstart hlt, State.owAfter, hsamples, hk, hline hn, ← hss]

/-- Settles O37: both units take the same samples (`State.samplesFrom_congr`) and so end at the same offset, where the
results use the samples alone (`Ow.complete_readTemp_congr`). -/
theorem readTempDependsOnSamplesOnly : Obligations.ReadTempDependsOnSamplesOnly := by
  intro s s' t t' arg arg' hw hb hb' ht ht' henv
  cases ht.symm.trans (State.issueTimed_idle .readTemp arg hb)
  cases ht'.symm.trans (State.issueTimed_idle .readTemp arg' hb')
  have hsame := State.samplesFrom_congr hw henv
  obtain ⟨N, hle, hN⟩ := s.exists_readTemp_end
  have hN' : duration s'.cfg.convWaitUs .readTemp (s'.samplesFrom .readTemp N) = N := by rw [← hw, ← hsame, hN]
  intro n
  have hn : N ≤ n := hle
  clear_value n
  rw [s.accepted_ow_after_end arg hN hn, s'.accepted_ow_after_end arg' hN' hn, ← hsame]
  exact Ow.complete_readTemp_congr rfl
    ((s.accepted_noPres .readTemp arg).trans (s'.accepted_noPres .readTemp arg').symm)

end Sys2Proof.Machine

/-! SUPPORT. The course of a conversion (R230, R237). -/

namespace Sys2Proof.Machine

/-! ## Completion (R237) -/

theorem Th.complete_invalid_iff (p : ThermParams) (h : Th) :
    (h.complete p).invalid = true ↔ (h.complete p).reason ≠ .none := bne_iff_ne

/-- A valid sample's resistance and temperature are written. -/
theorem Th.complete_writes_of_valid {p : ThermParams} {h : Th} (hr : reasonOf p h.code = .none) :
    (h.complete p).res = (thermNumerics p h.code).res ∧ (h.complete p).tempC = (thermNumerics p h.code).tempC :=
  ⟨if_pos hr, if_pos hr⟩

/-- An invalid sample leaves TH_RES and TH_TEMP_C alone. -/
theorem Th.complete_keeps_of_invalid {p : ThermParams} {h : Th} (hr : reasonOf p h.code ≠ .none) :
    (h.complete p).res = h.res ∧ (h.complete p).tempC = h.tempC :=
  ⟨if_neg hr, if_neg hr⟩

/-! ## Acceptance (R230) -/

theorem execThConvert_idle {s : State} (hb : s.th.busy = false) :
    execThConvert s = .next { s with th := s.th.accept s.cfg s.adcNext, draws := s.draws.takeAdc } := by
  simp [execThConvert, hb]

theorem Th.accept_waiting {c : Config} (hl : 0 < c.thLatency) (code : BitVec 12) (h : Th) :
    h.accept c code = { h.acceptFlags with code := code, busy := true, k := 0 } := if_neg hl.ne'

theorem Th.accept_at_once {c : Config} (hl : c.thLatency = 0) (code : BitVec 12) (h : Th) :
    h.accept c code = ({ h.acceptFlags with code := code } : Th).complete c.therm := if_pos hl

/-! ## The wait (R230) -/

/-- Until the tick that reaches TH_LATENCY a conversion only counts. -/
theorem State.ticks_th_waiting {s : State} (hb : s.th.busy = true) (hk : s.th.k = 0) {n : Nat}
    (hn : n < s.cfg.thLatency) : (s.ticks n).th = { s.th with k := n } := by
  induction n with
  | zero => exact congrArg (fun k => ({ s.th with k := k } : Th)) hk
  | succ n ih =>
    rw [State.ticks_succ, State.tick_th, State.ticks_cfg, ih (by omega)]
    exact Th.tick_waiting (h := { s.th with k := n }) hb hn.ne

/-- The tick that reaches TH_LATENCY completes the conversion. -/
theorem State.ticks_thLatency_th {s : State} (hb : s.th.busy = true) (hk : s.th.k = 0) (hl : 0 < s.cfg.thLatency) :
    (s.ticks s.cfg.thLatency).th = ({ s.th with k := s.cfg.thLatency } : Th).complete s.cfg.therm := by
  obtain ⟨m, hm⟩ : ∃ m, m + 1 = s.cfg.thLatency := ⟨_, Nat.sub_add_cancel hl⟩
  rw [← hm, State.ticks_succ, State.tick_th, State.ticks_cfg, State.ticks_th_waiting hb hk (by omega)]
  exact Th.tick_last (h := { s.th with k := m }) hb hm

end Sys2Proof.Machine

/-! PROOFS. TH_CONVERT and its conversion (R230, R231, R236, R237, R239). -/

namespace Sys2Proof.Machine

/-- Settles O40: the idle unit's acceptance, which waits or completes as TH_LATENCY says. -/
theorem thConvertAccepted : Obligations.ThConvertAccepted := by
  intro s hb
  refine ⟨_, execThConvert_idle hb, rfl, rfl, rfl, rfl, rfl, rfl, rfl,
    fun hl => Th.accept_waiting hl _ _, fun hl => ?_⟩
  simp only [Th.accept_at_once hl]
  exact ⟨rfl, rfl, rfl, rfl, rfl, rfl, Th.complete_invalid_iff .., rfl, Th.complete_writes_of_valid,
    Th.complete_keeps_of_invalid⟩

/-- Settles O42: the wait by induction on the ticks (`State.ticks_th_waiting`), then the tick that completes
(`State.ticks_thLatency_th`). -/
theorem thConversionTakesLatency : Obligations.ThConversionTakesLatency := by
  intro s hb hk hl
  refine ⟨fun n hn => State.ticks_th_waiting hb hk hn, ?_⟩
  simp only [State.ticks_thLatency_th hb hk hl]
  refine ⟨rfl, rfl, rfl, rfl, rfl, Th.complete_invalid_iff .., rfl, thermNumerics_volt_finite .., fun hr => ?_,
    Th.complete_keeps_of_invalid⟩
  obtain ⟨hres, htempC⟩ := Th.complete_writes_of_valid hr
  exact ⟨hres, htempC, hres ▸ thermNumerics_res_finite .., htempC ▸ thermNumerics_tempC_finite ..⟩

/-- Settles O43: N2 by definition, and finiteness as imposed on the free function. -/
theorem thermNumericsMeetsN2N3 : Obligations.ThermNumericsMeetsN2N3 := fun _ _ =>
  ⟨rfl, thermNumerics_volt_finite .., thermNumerics_res_finite .., thermNumerics_tempC_finite ..⟩

/-- Settles O50: where DONE is set the registers are ThermNumerics of the latched code, which N4 bounds. -/
theorem doneResultsAreAccurate : Obligations.DoneResultsAreAccurate := by
  intro s epsV epsR epsT ⟨hvolt, hvalid⟩ hagree hdone
  refine ⟨hagree.done_volt hdone ▸ hvolt _, fun hinv => ?_⟩
  have hnone : s.th.reason = .none := by simpa [hinv] using hagree.reason_iff
  rw [hagree.done_res hdone hnone, hagree.done_tempC hdone hnone]
  exact hvalid _ (hagree.done_reason hdone ▸ hnone)

end Sys2Proof.Machine

/-! SUPPORT. The divider at both topologies (R233, R235), and the temperature as a function of the resistance (R234). -/

namespace Sys2Proof.Machine

theorem thermParams_wellFormed_iff {p : ThermParams} :
    p.wellFormed = true ↔ 0 < p.rRef ∧ 0 < p.t0 ∧ 0 < p.beta ∧ 0 < p.rf ∧ 0 < p.vs := by
  simp [ThermParams.wellFormed, and_assoc]

/-! ## The divider (R233, R235) -/

/-- The code with the formula's numerator 0 (R235, order 2). -/
def zeroResistanceCode : Topology → BitVec 12
  | .fixedLow => 4095
  | .fixedHigh => 0

theorem zeroResistanceCode_ne_zeroDivisorCode (t : Topology) : zeroResistanceCode t ≠ zeroDivisorCode t := by
  cases t <;> decide

/-- The divider with the fixed resistor high: besides the code of its zero divisor, code 0 alone has no positive
resistance (R233, R235). -/
theorem resistance_nonpos_iff_of_fixedHigh {p : ThermParams} (ht : p.topology = .fixedHigh) (hrf : 0 < p.rf)
    {c : BitVec 12} (hc : c ≠ 4095) : resistance p c ≤ 0 ↔ c = 0 := by
  have hlt : c.toNat < 4095 := by
    have hne : c.toNat ≠ 4095 := fun h => hc (BitVec.eq_of_toNat_eq h)
    have := c.isLt
    omega
  have hden : (0 : ℚ) < 4095 - c.toNat := sub_pos.mpr (by exact_mod_cast hlt)
  have h0 : c = 0 ↔ c.toNat = 0 := BitVec.toNat_inj.symm
  simp only [resistance, ht, Config.maxCode]
  rw [Nat.cast_ofNat, div_le_iff₀ hden, zero_mul, ← not_lt, mul_pos_iff_of_pos_left hrf, h0]
  norm_cast
  omega

/-- At either topology, besides the code of the zero divisor, one code has no positive resistance. -/
theorem resistance_nonpos_iff {p : ThermParams} (hrf : 0 < p.rf) {c : BitVec 12}
    (hc : c ≠ zeroDivisorCode p.topology) : resistance p c ≤ 0 ↔ c = zeroResistanceCode p.topology := by
  cases ht : p.topology with
  | fixedLow => exact resistance_nonpos_iff_of_fixedLow ht hrf (by rwa [ht] at hc)
  | fixedHigh => exact resistance_nonpos_iff_of_fixedHigh ht hrf (by rwa [ht] at hc)

/-- The zero divisor gives no positive resistance either: in Lean's fields `x / 0` is 0. -/
theorem resistance_zeroDivisorCode (p : ThermParams) : resistance p (zeroDivisorCode p.topology) = 0 := by
  cases ht : p.topology <;> simp [resistance, ht, zeroDivisorCode, Config.maxCode]

theorem ne_zeroDivisorCode_of_resistance_pos {p : ThermParams} {c : BitVec 12} (hc : 0 < resistance p c) :
    c ≠ zeroDivisorCode p.topology := by
  rintro rfl
  exact hc.ne' (resistance_zeroDivisorCode p)

theorem realRes_of_fixedLow {p : ThermParams} (ht : p.topology = .fixedLow) (c : BitVec 12) :
    realRes p c = (p.rf : ℝ) * (4095 - (c.toNat : ℝ)) / (c.toNat : ℝ) := by
  simp only [realRes, ht]

/-- With the fixed resistor low the resistance is positive below full scale. -/
theorem realRes_pos_of_fixedLow {p : ThermParams} (ht : p.topology = .fixedLow) (hrf : 0 < p.rf) {c : BitVec 12}
    (h0 : 0 < c.toNat) (h1 : c.toNat < 4095) : 0 < realRes p c := by
  have hrf' : (0 : ℝ) < p.rf := by exact_mod_cast hrf
  have h0' : (0 : ℝ) < c.toNat := by exact_mod_cast h0
  have h1' : (0 : ℝ) < 4095 - c.toNat := sub_pos.mpr (by exact_mod_cast h1)
  rw [realRes_of_fixedLow ht]
  positivity

/-- With the fixed resistor low the resistance falls as the code rises: the numerator falls and the divisor rises. -/
theorem realRes_lt_of_fixedLow {p : ThermParams} (ht : p.topology = .fixedLow) (hrf : 0 < p.rf) {c c' : BitVec 12}
    (h0 : 0 < c.toNat) (hlt : c.toNat < c'.toNat) : realRes p c' < realRes p c := by
  have hrf' : (0 : ℝ) < p.rf := by exact_mod_cast hrf
  have h0' : (0 : ℝ) < c.toNat := by exact_mod_cast h0
  have hlt' : (c.toNat : ℝ) < c'.toNat := by exact_mod_cast hlt
  have hle : (c.toNat : ℝ) ≤ 4095 := by exact_mod_cast Nat.le_of_lt_succ c.isLt
  rw [realRes_of_fixedLow ht, realRes_of_fixedLow ht]
  exact div_lt_div₀ (mul_lt_mul_of_pos_left (by linarith) hrf') hlt'.le
    (mul_nonneg hrf'.le (sub_nonneg.mpr hle)) h0'

/-! ## The temperature (R234) -/

theorem realD_rRef {p : ThermParams} (hr : 0 < p.rRef) : realD p (p.rRef : ℝ) = 1 / (p.t0 : ℝ) := by
  have hr' : (p.rRef : ℝ) ≠ 0 := by exact_mod_cast hr.ne'
  simp [realD, div_self hr']

/-- `D` rises with the resistance, by the logarithm. -/
theorem realD_lt_realD {p : ThermParams} (hr : 0 < p.rRef) (hb : 0 < p.beta) {x y : ℝ} (hx : 0 < x) (hxy : x < y) :
    realD p x < realD p y := by
  have hr' : (0 : ℝ) < p.rRef := by exact_mod_cast hr
  have hb' : (0 : ℝ) < p.beta := by exact_mod_cast hb
  have hlog : Real.log (x / p.rRef) < Real.log (y / p.rRef) :=
    Real.log_lt_log (div_pos hx hr') (div_lt_div_of_pos_right hxy hr')
  exact add_lt_add_right (div_lt_div_of_pos_right hlog hb') _

/-- `TC` falls as `D`, still positive, rises. -/
theorem realTempC_lt_realTempC {p : ThermParams} {x y : ℝ} (hx : 0 < realD p x) (hxy : realD p x < realD p y) :
    realTempC p y < realTempC p x :=
  sub_lt_sub_right (one_div_lt_one_div_of_lt hx hxy) _

end Sys2Proof.Machine

/-! PROOFS. Validity and the algebra of the converter (R232–R235, R240, R241, R243). -/

namespace Sys2Proof.Machine

/-- Settles O44: order 1 is the zero divisor, order 2 the other end code (`resistance_nonpos_iff`). -/
theorem endCodesInvalid : Obligations.EndCodesInvalid := by
  intro p c hp
  obtain ⟨-, -, -, hrf, -⟩ := thermParams_wellFormed_iff.mp hp
  refine ⟨(reasonOf_eq_zeroVoltage_iff p c).trans ?_, (reasonOf_eq_nonpositiveResistance_iff p c).trans ?_,
    fun hz => ?_⟩
  · cases p.topology <;> rfl
  · have hend : c ≠ zeroDivisorCode p.topology ∧ resistance p c ≤ 0 ↔ c = zeroResistanceCode p.topology := by
      refine ⟨fun ⟨hc, hr⟩ => (resistance_nonpos_iff hrf hc).mp hr, fun h => ?_⟩
      have hc : c ≠ zeroDivisorCode p.topology := h ▸ zeroResistanceCode_ne_zeroDivisorCode _
      exact ⟨hc, (resistance_nonpos_iff hrf hc).mpr h⟩
    rw [hend]
    cases p.topology <;> rfl
  · have hc : c ≠ zeroDivisorCode p.topology := fun h => hz ((reasonOf_eq_zeroVoltage_iff p c).mpr h)
    rw [reasonOf_eq_nonpositiveResistance_iff, and_iff_right hc, ← realRes_cast, Rat.cast_nonpos]

/-- Settles O45: the test of the range is exact (`outOfRange_iff_realD_nonpos`), and a positive resistance leaves
order 3 alone to decide. -/
theorem rangeDecisionIsSound : Obligations.RangeDecisionIsSound := by
  intro p c hp hres
  obtain ⟨hr, ht, hb, -, -⟩ := thermParams_wellFormed_iff.mp hp
  rw [← realRes_cast, Rat.cast_pos] at hres
  have hout := outOfRange_iff_realD_nonpos hr ht hb hres
  have hc := ne_zeroDivisorCode_of_resistance_pos hres
  refine ⟨hout, ?_, ?_⟩
  · rw [reasonOf_eq_temperatureOutOfRange_iff, and_iff_right hc, and_iff_right hres, hout]
  · rw [reasonOf_eq_none_iff, and_iff_right hc, and_iff_right hres, ← Bool.not_eq_true, hout, not_le]

/-- Settles O47: the resistance falls with the code, `D` with the resistance, and the temperature rises as `D` falls. -/
theorem temperatureRisesWithCode : Obligations.TemperatureRisesWithCode := by
  intro p c c' hp ht h0 hlt h1 hD'
  obtain ⟨hr, -, hb, hrf, -⟩ := thermParams_wellFormed_iff.mp hp
  have hres : realRes p c' < realRes p c := realRes_lt_of_fixedLow ht hrf h0 hlt
  have hD : realD p (realRes p c') < realD p (realRes p c) :=
    realD_lt_realD hr hb (realRes_pos_of_fixedLow ht hrf (h0.trans hlt) h1) hres
  exact ⟨hres, hD'.trans hD, realTempC_lt_realTempC hD' hD⟩

/-- Settles O48: at `R_REF` the logarithm vanishes (`realD_rRef`), so that `TC` is `T0` in degrees Celsius. -/
theorem calibrationPointExact : Obligations.CalibrationPointExact := by
  intro p hp
  obtain ⟨hr, -⟩ := thermParams_wellFormed_iff.mp hp
  have hT : realTempC p (p.rRef : ℝ) = (p.t0 : ℝ) - 273.15 := by rw [realTempC, realD_rRef hr, one_div_one_div]
  refine ⟨hT, fun ht0 => ?_⟩
  rw [hT, ht0]
  norm_num

/-- Settles O49: both formulas at code 2048, in exact rationals. -/
theorem workedExampleByFormulas : Obligations.WorkedExampleByFormulas := by
  intro p hvs hrf ht
  have hc : (2048#12).toNat = 2048 := rfl
  constructor
  · rw [voltage, hvs, hc, Config.maxCode]
    norm_num
  · simp only [resistance, ht, hrf, hc, Config.maxCode]
    norm_num

end Sys2Proof.Machine

/-! PROOFS. A start while the TH unit is BUSY (60_exceptions: R264). -/

namespace Sys2Proof.Machine

theorem execThConvert_busy {s : State} (hb : s.th.busy = true) :
    execThConvert s = .next { s with th := s.th.reject } := if_pos hb

/-- A word with START set, written to TH_CTRL, decodes to TH_CONVERT (R113). -/
theorem decode_thCtrl_of_start {w : Word} (hw : w.getLsbD 0 = true) :
    decode .thCtrl (lanesOfWord w) = .ok .thConvert :=
  (congrArg decodeTh (wordOfLanes_byteLane w)).trans (decodeTh_eq_ok_iff.mpr ⟨hw, rfl⟩)

/-- Settles O41: the step runs TH_CONVERT (`stepRunsWrittenCommand`), which a BUSY unit rejects; a BUSY unit's `th_k` is
below TH_LATENCY, which is then positive. -/
theorem thStartWhileBusyRejected : Obligations.ThStartWhileBusyRejected := by
  refine ⟨fun s rest w ha hw hb => ?_, fun s hagree hb => Nat.zero_lt_of_lt (hagree.before_end hb)⟩
  have hstep : step s = exec .thConvert { s with agenda := rest } :=
    (stepRunsWrittenCommand s rest w .thCtrl 0x20 (.inr ⟨rfl, rfl⟩) ha).1 _ (decode_thCtrl_of_start hw)
  exact hstep.trans (execThConvert_busy (s := { s with agenda := rest }) hb)

end Sys2Proof.Machine

/-! PROOFS. The reset action and the hazards (70_reset_and_hazards: R290, R320). -/

namespace Sys2Proof.Machine

/-- Settles O2: the reset action restores `now` and both units (`State.assertReset`), and R55's values of the units do not
depend on the build. -/
theorem resetActionRestoresAll : Obligations.ResetActionRestoresAll := by
  intro s rest ha
  exact ⟨({ s with agenda := rest } : State).assertReset, step_of_agenda ha, rfl, rfl, rfl, rfl, rfl, rfl, rfl⟩

/-! ## Ticks with the line low (R320) -/

/-- A slot whose low part fits in it has the line low for just that part. -/
theorem countP_range_lowFor {c n : Nat} (h : c ≤ n) : (List.range n).countP (lowFor c · == .output) = c := by
  have hlow (l : List Nat) : l.countP (lowFor c · == .output) = l.countP (· < c) :=
    List.countP_congr fun j _ => by rw [beq_iff_eq, decide_eq_true_iff, lowFor_eq_output_iff]
  obtain ⟨d, rfl⟩ := Nat.exists_eq_add_of_le h
  rw [hlow, List.range_add, List.countP_append, List.countP_eq_length.mpr (by simp), List.countP_eq_zero.mpr (by simp),
    List.length_range, Nat.add_zero]

/-- Consecutive slots of 70 ticks, slot `i` low for its first `c i`. -/
theorem countP_range_lowFor_slots {c : Nat → Nat} (hc : ∀ i, c i ≤ 70) (m : Nat) :
    (List.range (70 * m)).countP (fun k => lowFor (c (k / 70)) (k % 70) == .output) =
      ((List.range m).map c).sum := by
  induction m with
  | zero => rfl
  | succ m ih =>
    have hslot : (List.range 70).countP ((fun k => lowFor (c (k / 70)) (k % 70) == .output) ∘ (70 * m + ·)) = c m := by
      rw [← countP_range_lowFor (hc m)]
      refine List.countP_congr fun j hj => ?_
      have hj := List.mem_range.mp hj
      rw [Function.comp, show (70 * m + j) / 70 = m by omega, show (70 * m + j) % 70 = j by omega]
    rw [Nat.mul_succ, List.range_add, List.countP_append, List.countP_map, ih, hslot, List.range_succ, List.map_append,
      List.sum_append, List.map_singleton, List.sum_singleton]

theorem sum_map_ite_eq_countP (p : Nat → Bool) (a b : Nat) (l : List Nat) :
    (l.map fun i => if p i then a else b).sum = a * l.countP p + b * (l.length - l.countP p) := by
  induction l with
  | nil => rfl
  | cons i l ih =>
    have hle : l.countP p ≤ l.length := List.countP_le_length
    rw [List.map_cons, List.sum_cons, ih, List.length_cons]
    by_cases hp : p i = true
    · rw [if_pos hp, List.countP_cons_of_pos hp, Nat.add_sub_add_right]
      ring
    · rw [if_neg hp, List.countP_cons_of_neg hp, Nat.sub_add_comm hle]
      ring

/-- Settles O26: one slot is low for its low part (`countP_range_lowFor`), a byte for the sum of its eight slots' low
parts (`countP_range_lowFor_slots`). -/
theorem lowTicksPerCommand : Obligations.LowTicksPerCommand := by
  refine ⟨fun w arg => countP_range_lowFor (by decide), fun w arg => countP_range_lowFor ?_,
    fun w arg => countP_range_lowFor (by decide), fun w arg => ?_, fun w arg => ?_⟩
  · split <;> decide
  · exact countP_range_lowFor_slots (c := fun _ => 6) (fun _ => by decide) 8
  · refine (countP_range_lowFor_slots (c := fun i => if arg.getLsbD i then 6 else 60) (fun i => ?_) 8).trans
      (sum_map_ite_eq_countP arg.getLsbD 6 60 (List.range 8))
    split <;> decide

end Sys2Proof.Machine

/-! PROOFS. A word of the opcode table, placed for the next step (log 9, 10). -/

namespace Sys2Proof.Machine

/-! ## What a table word is read for (log 9) -/

/-- An OW command's word is read for OW_CTRL, the table's first rows. -/
theorem decodeTableWord_of_decodeOw {w : Word} {i : Instr} (h : decodeOw w = .ok i) :
    decodeTableWord 32 w.toNat = some i := by
  simp [decodeTableWord, decode_owCtrl_lanesOfWord, h]

/-- A word that is no OW command is read for TH_CTRL. -/
theorem decodeTableWord_of_decodeTh {w : Word} {e : DecodeError} {i : Instr} (h : decodeOw w = .error e)
    (ht : decodeTh w = .ok i) : decodeTableWord 32 w.toNat = some i := by
  have hd : decode .thCtrl (lanesOfWord w) = .ok i := (congrArg decodeTh (wordOfLanes_byteLane w)).trans ht
  simp [decodeTableWord, decode_owCtrl_lanesOfWord, h, hd, Except.toOption]

theorem decodeTableWord_of_decodeBus {v : Byte} {i : Instr} (h : decodeBus v = .ok i) :
    decodeTableWord 8 v.toNat = some i := by
  simp [decodeTableWord, decode, h, Except.toOption]

/-! ## Where it is placed (log 10) -/

/-- A command word is placed as a host write to the register it is read for. -/
theorem State.withFetchWord_word {t : Target} {off : Nat} {w : Word} {i : Instr}
    (hreg : t = .owCtrl ∧ off = 0x00 ∨ t = .thCtrl ∧ off = 0x20) (h : decodeTableWord 32 w.toNat = some i)
    (hi : i.target = t) (s : State) : s.withFetchWord 32 w.toNat = s.placeWrite off w := by
  obtain ⟨rfl, rfl⟩ | ⟨rfl, rfl⟩ := hreg <;>
    simp only [State.withFetchWord, State.placeTableWord, h, hi, BitVec.ofNat_toNat, BitVec.setWidth_eq]

theorem State.withFetchWord_bus {v : Byte} {i : Instr} (h : decodeTableWord 8 v.toNat = some i)
    (hi : i.target = .bus) (s : State) : s.withFetchWord 8 v.toNat = s.placeBus i := by
  simp only [State.withFetchWord, State.placeTableWord, h, hi]

/-- A bus command is placed at the first tick of its byte under OW_READ_TEMP (R205). -/
theorem State.exists_placeBus_eq {i : Instr} {v : Byte} (h : i.busByte = some v) (s : State) :
    ∃ k n, (i, v, k) ∈ busSchedule s.cfg.convWaitUs ∧ s.placeBus i = s.placeSending k n := by
  cases i with
  | skipRom => cases h; exact ⟨960, 1, by simp [busSchedule], rfl⟩
  | startConversion => cases h; exact ⟨1520, 1, by simp [busSchedule], rfl⟩
  | readScratchpad =>
    cases h
    refine ⟨2080 + s.cfg.convWaitUs + 1520, 2, by simp [busSchedule], ?_⟩
    rw [State.placeBus, secondReset_eq]
    rfl
  | _ => cases h

/-! ## The next step -/

theorem step_withFetchWord_word {t : Target} {off : Nat} {w : Word} {i : Instr}
    (hreg : t = .owCtrl ∧ off = 0x00 ∨ t = .thCtrl ∧ off = 0x20) (h : decodeTableWord 32 w.toNat = some i)
    (hd : decode t (lanesOfWord w) = .ok i) (s : State) : step (s.withFetchWord 32 w.toNat) = exec i s := by
  rw [State.withFetchWord_word hreg h (decode_target hd)]
  exact (stepRunsWrittenCommand (s.placeWrite off w) s.agenda w t off hreg rfl).1 i hd

/-- A sequencer placed at the first tick of a byte has that byte on the line. -/
theorem State.sending_placeSending {s : State} {i : Instr} {v : Byte} {k : Nat}
    (h : (i, v, k) ∈ busSchedule s.cfg.convWaitUs) (n : Nat) :
    (s.placeSending k n).ow.sending s.cfg.convWaitUs = some (v, 0) := by
  have hphase := (readTempPhase_of_mem_busSchedule h (Nat.le_refl k) (by simp)).2
  rw [Nat.sub_self] at hphase
  exact Ow.sending_of_phase rfl rfl hphase

/-- Settles O15: a command word's next step is its write's (`step_withFetchWord_word`); a bus byte is placed where the
sequencer sends it (`State.sending_placeSending`), and the placing changes the OW unit and the agenda only. -/
theorem placedWordRunsNext : Obligations.PlacedWordRunsNext := by
  refine ⟨fun s w i hd => ?_, fun s w ⟨e, he⟩ hd => ?_, fun s v i hd => ?_⟩
  · exact step_withFetchWord_word (.inl ⟨rfl, rfl⟩) (decodeTableWord_of_decodeOw hd)
      ((decode_owCtrl_lanesOfWord w).trans hd) s
  · exact step_withFetchWord_word (.inr ⟨rfl, rfl⟩) (decodeTableWord_of_decodeTh he hd)
      (decode_thCtrl_of_start (decodeTh_eq_ok_iff.mp hd).1) s
  · have hbus : decode .bus [v] = .ok i := hd
    have hi : i.busByte = some v := decodeBus_eq_ok_iff.mp hd
    obtain ⟨k, n, hmem, hplace⟩ := State.exists_placeBus_eq hi s
    have hs := State.sending_placeSending hmem n
    rw [State.withFetchWord_bus (decodeTableWord_of_decodeBus hd) (decode_target hbus), hplace]
    refine ⟨(s.placeSending k n).popped, stepRunsBusCommandOnTheLine _ v 0 i rfl hs hbus,
      ⟨(s.placeSending k n).popped.tick, ?_⟩, rfl, rfl, rfl, rfl, rfl, rfl⟩
    rw [exec_of_busByte hi]
    exact State.busTick_sending (s := (s.placeSending k n).popped) hs

end Sys2Proof.Machine
